-- ==== Sys2Proof/Word.lean ====
section
/-! DEFINITION. The number types of OMFS: a byte of the data path and a word of the event encoding EW32. -/

namespace Sys2Proof

/-- A byte, 8 bits (spec rule R5). Bytes are only ever compared for equality in the data path. -/
abbrev Byte := BitVec 8

/-- A byte sequence: every buffer, frame, payload and chunk of OMFS is one, unaddressed and unbounded
(rules R9, R50). -/
abbrev Bytes := List Byte

/-- One 32-bit word of the event encoding EW32, bit 31 most significant (rule R78). -/
abbrev Word := BitVec 32

end Sys2Proof
end

