-- ==== Sys2Proof/Syntax.lean ====
section
/-! DEFINITION. The operations of OMFS: the fifteen step labels of rules R12 and R80, with their abstract operands, the
agents that issue them, the interfaces they arrive on, and the reasons an event word is reserved. -/

namespace Sys2Proof

/-- A step label (rule R12), one constructor per row of the opcode table (rule R80). Operands are the abstract ones,
without EW32's limits of width (rules R9, R79). A waiter choice is `none` where EW32 writes 0xF (rule R82). -/
inductive Instr where
  /-- START: `start()` (rule R190). -/
  | start
  /-- STOP: `stop()` (rule R191). -/
  | stop
  /-- CLEAR: `statistics_clear()` (rule R162). -/
  | clear
  /-- SNAP: `statistics_snapshot()` (rule R161). -/
  | snap
  /-- ALIVE: read the loop-alive status (rule R192). -/
  | alive
  /-- RXDATA bs: the poll of the transport and its read (rule R122). -/
  | rxdata (bs : Bytes)
  /-- RXERR: a transport read error (rule R123). -/
  | rxerr
  /-- RXSTEP: one step of the Transport Loop, with the waiter choice `w` (rules R121, R124 to R127). -/
  | rxstep (w : Option Nat)
  /-- TAKE c, N: consumer `c` begins to wait for at most `n` ticks (rule R142). -/
  | take (c n : Nat)
  /-- TAKEEND c: consumer `c` resumes, reads and clears the slot (rule R144). -/
  | takeend (c : Nat)
  /-- TICK: one unit of time passes (rule R143). -/
  | tick
  /-- XMIT t, p: caller `t` enters `transmit` with the payload `p` (rule R175). -/
  | xmit (t : Nat) (p : Bytes)
  /-- TXSTEP t: caller `t` encodes, or writes with the transport's verdict `wok` (rules R176, R177). -/
  | txstep (t : Nat) (wok : Bool)
  /-- FEED b: test access to the feed function (rule R106). -/
  | feed (b : Byte)
  /-- PUB w, p: test access to the publish function (rule R141). -/
  | pub (w : Option Nat) (p : Bytes)
  deriving DecidableEq, Repr

/-- The agents that choose labels (rule R12). -/
inductive Agent where
  | host
  | xport
  | rxseq
  | cons (c : Nat)
  | txc (t : Nat)
  | timer
  | test
  deriving DecidableEq, Repr

/-- The agents that have a part in a label: its issuer, and for TXSTEP also the transport, whose write verdict it
carries (rules R12, R80). -/
def Instr.agents : Instr → List Agent
  | .start => [.host]
  | .stop => [.host]
  | .clear => [.host]
  | .snap => [.host]
  | .alive => [.host]
  | .rxdata _ => [.xport]
  | .rxerr => [.xport]
  | .rxstep _ => [.rxseq]
  | .take c _ => [.cons c]
  | .takeend c => [.cons c]
  | .tick => [.timer]
  | .xmit t _ => [.txc t]
  | .txstep t _ => [.txc t, .xport]
  | .feed _ => [.test]
  | .pub _ _ => [.test]

/-- The interfaces of rule R13, and the one-wire timer input. TXP[t] and TXS share a row of the rule's table. CODEC carries
no label of its own: OMFS calls out on it inside RXSTEP and TXSTEP, and the answers are the functions of `Config`. -/
inductive Interface where
  | ctl
  | rxs
  | rxq
  | codec
  | con (c : Nat)
  | txp (t : Nat)
  | txs
  | tst
  | timerInput
  deriving DecidableEq, Repr

/-- The interface on which a label is one handshake (rule R13). -/
def Instr.interface : Instr → Interface
  | .start => .ctl
  | .stop => .ctl
  | .clear => .ctl
  | .snap => .ctl
  | .alive => .ctl
  | .rxdata _ => .rxs
  | .rxerr => .rxs
  | .rxstep _ => .rxq
  | .take c _ => .con c
  | .takeend c => .con c
  | .tick => .timerInput
  | .xmit t _ => .txp t
  | .txstep t _ => .txp t
  | .feed _ => .tst
  | .pub _ _ => .tst

/-- Why the words at the front of the event input are no event (rules R79, R81). -/
inductive Reserved where
  /-- There is no word: no label is offered. -/
  | noEvent
  /-- `op = 0x0`. -/
  | opcode
  /-- A field the table of rule R80 gives as 0 is not 0. -/
  | nonzeroField
  /-- A payload word has `bits[31:8] != 0`. -/
  | payloadHighBits
  /-- The words end before the payload that the header announces does. DESIGN CHOICE, safe (assumption log 17). -/
  | truncated
  deriving DecidableEq, Repr

end Sys2Proof
end

