-- ==== Sys2Proof/Decode.lean ====
section
/-! DEFINITION. EW32: the decoder from event words to instructions, total and rejecting by name, and after it the
encoder, both written from rules R78 to R84. -/

namespace Sys2Proof

/-! ### Fields -/

/-- `bits[hi:lo]` of a word as a number, bit 0 least significant (rule R14). -/
def bits (hi lo : Nat) (w : Word) : Nat := w.toNat / 2 ^ lo % 2 ^ (hi + 1 - lo)

/-- The `op` field (rule R78). -/
def opField (h : Word) : Nat := bits 31 28 h

/-- The `id` field (rule R78). -/
def idField (h : Word) : Nat := bits 27 24 h

/-- The `arg` field (rule R78). -/
def argField (h : Word) : Nat := bits 23 0 h

/-- How many payload words follow a header: `arg` for RXDATA, XMIT and PUB, none for the rest (rules R79, R84). -/
def payloadCount (h : Word) : Nat :=
  match opField h with
  | 0x6 => argField h
  | 0xC => argField h
  | 0xF => argField h
  | _ => 0

/-- The waiter choice an `id` field carries: 0xF names no consumer (rule R82). -/
def waiterOfId (id : Nat) : Option Nat := if id = 0xF then none else some id

/-! ### Decoder -/

/-- The `n` payload words at the front of `ws` as bytes, and the words behind them (rule R79). DESIGN CHOICE, safe: words
that end before the payload does, which rule R81 does not name, are refused as `truncated` (assumption log 17). -/
def takePayload : List Word → Nat → Except Reserved (Bytes × List Word)
  | ws, 0 => .ok ([], ws)
  | [], _ + 1 => .error .truncated
  | w :: ws, n + 1 =>
    if bits 31 8 w = 0 then
      match takePayload ws n with
      | .ok (bs, rest) => .ok (BitVec.ofNat 8 (bits 7 0 w) :: bs, rest)
      | .error e => .error e
    else .error .payloadHighBits

/-- Accept `i` when the fields that the table gives as 0 are 0 (rule R81). -/
def requireZero (zero : Bool) (i : Instr) : Except Reserved Instr :=
  if zero then .ok i else .error .nonzeroField

/-- The instruction a header spells, given its payload: the opcode map of rule R80, row by row. -/
def decodeHeader (h : Word) (payload : Bytes) : Except Reserved Instr :=
  match opField h with
  | 0x1 => requireZero (idField h == 0 && argField h == 0) .start
  | 0x2 => requireZero (idField h == 0 && argField h == 0) .stop
  | 0x3 => requireZero (idField h == 0 && argField h == 0) .clear
  | 0x4 => requireZero (idField h == 0 && argField h == 0) .snap
  | 0x5 => requireZero (idField h == 0 && argField h == 0) .alive
  | 0x6 => requireZero (idField h == 0) (.rxdata payload)
  | 0x7 => requireZero (idField h == 0 && argField h == 0) .rxerr
  | 0x8 => requireZero (argField h == 0) (.rxstep (waiterOfId (idField h)))
  | 0x9 => .ok (.take (idField h) (argField h))
  | 0xA => requireZero (argField h == 0) (.takeend (idField h))
  | 0xB => requireZero (idField h == 0 && argField h == 0) .tick
  | 0xC => .ok (.xmit (idField h) payload)
  | 0xD => requireZero (bits 23 1 h == 0) (.txstep (idField h) (bits 0 0 h == 1))
  | 0xE => requireZero (idField h == 0 && bits 23 8 h == 0) (.feed (BitVec.ofNat 8 (bits 7 0 h)))
  | 0xF => .ok (.pub (waiterOfId (idField h)) payload)
  | _ => .error .opcode

/-- The event at the front of a list of words, and the words behind it; a payload word is told from a header by
position only (rule R79). -/
def decode : List Word → Except Reserved (Instr × List Word)
  | [] => .error .noEvent
  | h :: ws =>
    match takePayload ws (payloadCount h) with
    | .error e => .error e
    | .ok (payload, rest) =>
      match decodeHeader h payload with
      | .ok i => .ok (i, rest)
      | .error e => .error e

/-! ### Encoder -/

/-- A header word with the given fields (rule R78). -/
def header (op id arg : Nat) : Word := BitVec.ofNat 32 (op * 2 ^ 28 + id * 2 ^ 24 + arg)

/-- The payload word of one byte: `bits[31:8] = 0` (rule R79). -/
def payloadWord (b : Byte) : Word := BitVec.ofNat 32 b.toNat

/-- The `id` field of a waiter choice (rule R82). -/
def idOfWaiter : Option Nat → Nat
  | none => 0xF
  | some c => c

/-- The words of an instruction that fits EW32 (rules R79, R80). -/
def encode : Instr → List Word
  | .start => [header 0x1 0 0]
  | .stop => [header 0x2 0 0]
  | .clear => [header 0x3 0 0]
  | .snap => [header 0x4 0 0]
  | .alive => [header 0x5 0 0]
  | .rxdata bs => header 0x6 0 bs.length :: bs.map payloadWord
  | .rxerr => [header 0x7 0 0]
  | .rxstep w => [header 0x8 (idOfWaiter w) 0]
  | .take c n => [header 0x9 c n]
  | .takeend c => [header 0xA c 0]
  | .tick => [header 0xB 0 0]
  | .xmit t p => header 0xC t p.length :: p.map payloadWord
  | .txstep t wok => [header 0xD t wok.toNat]
  | .feed b => [header 0xE 0 b.toNat]
  | .pub w p => header 0xF (idOfWaiter w) p.length :: p.map payloadWord

/-- The number of words of an event, from its label alone (rule R84). -/
def Instr.words : Instr → Nat
  | .rxdata bs => 1 + bs.length
  | .xmit _ p => 1 + p.length
  | .pub _ p => 1 + p.length
  | .start => 1
  | .stop => 1
  | .clear => 1
  | .snap => 1
  | .alive => 1
  | .rxerr => 1
  | .rxstep _ => 1
  | .take _ _ => 1
  | .takeend _ => 1
  | .tick => 1
  | .txstep _ _ => 1
  | .feed _ => 1

/-! ### The host's view of an encoding -/

/-- `n` words of 32 bits, least significant first. -/
def wordsOf : Nat → Nat → List Word
  | 0, _ => []
  | n + 1, v => BitVec.ofNat 32 v :: wordsOf n (v / 2 ^ 32)

/-- The words of the event whose bits are the low `nbits` bits of `w`, the first word lowest: the header, and as many
payload words as the header announces, the bits above `nbits` being 0. -/
def tableWords (nbits w : Nat) : List Word :=
  BitVec.ofNat 32 (w % 2 ^ nbits) ::
    wordsOf (payloadCount (BitVec.ofNat 32 (w % 2 ^ nbits))) (w % 2 ^ nbits / 2 ^ 32)

/-- The instruction the decoder reads from the event whose bits are `w`. -/
def decodeTableWord (nbits w : Nat) : Option Instr :=
  match decode (tableWords nbits w) with
  | .ok (i, _) => some i
  | .error _ => none

end Sys2Proof
end

