-- ==== Sys2Proof/Config.lean ====
section
/-! DEFINITION. The parameters of OMFS (rules R5 to R11) and the model's free values: constants without a body, so that
no proof can see what they are and every statement holds for each of their values. -/

namespace Sys2Proof

/-- What a codec function answers: `Ok(Bytes)` or `FormatError` (rule R7). -/
inductive CodecResult where
  | ok (bytes : Bytes)
  | formatError
  deriving DecidableEq, Repr, Inhabited

/-- The codec law of rule R7: whatever `encode` accepts, `decode` gives back. -/
def CodecLaw (encode decode : Bytes → CodecResult) : Prop :=
  ∀ p raw, encode p = .ok raw → decode raw = .ok p

/-- `encode`, cut down to what `decode` gives back. It obeys `CodecLaw` whatever the two functions are, and it is
`encode` itself whenever the two functions obey the law (`Laws.lawful_eq_self`). -/
def lawful (encode decode : Bytes → CodecResult) (p : Bytes) : CodecResult :=
  match encode p with
  | .ok raw => if decode raw = .ok p then .ok raw else .formatError
  | .formatError => .formatError

namespace Config

/-- `FLAG`, the frame delimiter: an OPEN parameter (rule R6, decision D3). -/
opaque flag : Byte

/-- `decode`, an OPEN total function of its argument alone (rule R7). -/
opaque decode : Bytes → CodecResult

/-- The uninterpreted function `encode` is made from; nothing else reads it. -/
opaque rawEncode : Bytes → CodecResult

/-- `encode`, an OPEN total function of its argument alone that obeys the round-trip law and nothing else (rule R7).
The pairs (`encode`, `decode`) this admits are exactly the pairs that obey the law. -/
def encode (p : Bytes) : CodecResult := lawful rawEncode decode p

/-- `NCONS - 1`, OPEN. -/
opaque consumersLessOne : Fin 15

/-- `NCONS`, the number of consumer contexts, 1 to 15 (rule R8). -/
def ncons : Nat := consumersLessOne.val + 1

/-- `NTX` as a number below 17, OPEN. -/
opaque transmitCallers : Fin 17

/-- `NTX`, the number of transmit caller contexts, 0 to 16 (rule R8). -/
def ntx : Nat := transmitCallers.val

/-- FREE VALUE number `n` that is a byte sequence: the content of a TXBYTES record once `mark.tx_overlap` is set
(rules R36, R178; table entry U8). -/
opaque freeBytes : Nat → Bytes

/-- FREE VALUE number `n` that is a length: how many bytes of a failed write reached the line (rule R177; table
entry U7). -/
opaque freeLength : Nat → Nat

end Config

end Sys2Proof
end

