-- ==== Sys2Proof/Machine/State.lean ====
section
/-! DEFINITION. The state of OMFS (rule R20) as plain data, with the four fields the model adds, the response records, the
reasons a step can stop, and the state after reset (rules R230, R231). -/

namespace Sys2Proof.Machine

/-! ### The elements of rule R20 -/

/-- `sy.state` (rule R21). -/
inductive SyncState where
  | idle
  | receiving
  deriving DecidableEq, Repr

/-- The frame synchronizer's state (rules R21 to R23). -/
structure Sync where
  /-- `sy.state`. -/
  state : SyncState
  /-- `sy.prev`: the byte most recently fed, absent after reset and after an emission (rule R22). -/
  prev : Option Byte
  /-- `sy.buf`: the frame in progress (rule R23). -/
  buf : Bytes
  deriving DecidableEq, Repr

/-- `rx.phase`: where the Transport Loop stands (rule R26). -/
inductive Phase where
  | off
  | top
  | poll
  | feeding
  | decoding
  | publishing
  | exited
  deriving DecidableEq, Repr

/-- The receive sequencer's state (rules R26 to R28). -/
structure Rxseq where
  /-- `rx.phase`. -/
  phase : Phase
  /-- `rx.chunk`: bytes read and not yet fed (rule R27). -/
  chunk : Bytes
  /-- `rx.raw`: the raw frame awaiting `decode` (rule R28). -/
  raw : Option Bytes
  /-- `rx.pay`: the decoded frame awaiting its publish (rule R28). -/
  pay : Option Bytes
  deriving DecidableEq, Repr

/-- `ib.cons[c]`: a consumer's wait state (rule R32). -/
inductive Cons where
  /-- `C_IDLE`: not inside `take`. -/
  | idle
  /-- `C_WAIT(k)`: waiting, `k` ticks left; `k = 0` is timed out and not yet resumed. -/
  | wait (k : Nat)
  /-- `C_NOTIFIED`: chosen by a notify and not yet resumed. -/
  | notified
  deriving DecidableEq, Repr

/-- The inbox (rules R31, R32). -/
structure Inbox where
  /-- `ib.slot`: the held frame. -/
  slot : Option Bytes
  /-- `ib.cons`: one wait state per consumer context; its length is `NCONS`. -/
  cons : List Cons
  deriving DecidableEq, Repr

/-- The names of the six counters (rule R33). -/
inductive Counter where
  | txTotal
  | txGood
  | txBad
  | rxTotal
  | rxGood
  | rxBad
  deriving DecidableEq, Repr

/-- The six statistics counters, natural numbers without bound, in the order of rule R33. -/
structure Stats where
  txTotal : Nat
  txGood : Nat
  txBad : Nat
  rxTotal : Nat
  rxGood : Nat
  rxBad : Nat
  deriving DecidableEq, Repr

/-- All six counters 0: their value at reset and after CLEAR (rules R162, R231). -/
def Stats.zero : Stats :=
  { txTotal := 0, txGood := 0, txBad := 0, rxTotal := 0, rxGood := 0, rxBad := 0 }

/-- `tx.ctx[t]`: a caller's progress inside `transmit` (rule R35). -/
inductive TxCtx where
  /-- `T_IDLE`: not inside `transmit`. -/
  | idle
  /-- `T_ENC(p)`: counted in `tx_total`, `encode(p)` about to be applied. -/
  | enc (p : Bytes)
  /-- `T_WR(raw)`: encoded, the write of `raw` about to happen or blocked in the transport. -/
  | wr (raw : Bytes)
  deriving DecidableEq, Repr

/-- The transmit path's state (rule R35). -/
structure Tx where
  /-- `tx.ctx`: one progress value per caller context; its length is `NTX`. -/
  ctx : List TxCtx
  deriving DecidableEq, Repr

/-! ### Responses -/

/-- The `code` field of XMIT_R (rule R76). -/
inductive XmitCode where
  | ok
  | encodeError
  | writeError
  deriving DecidableEq, Repr

/-- The response records (rules R13, R75 to R77). -/
inductive Response where
  /-- SNAP_R: the six counters. -/
  | snapR (counters : Stats)
  /-- ALIVE_R(a): true is 1. -/
  | aliveR (a : Bool)
  /-- XCLOSE: the transport is closed. -/
  | xclose
  /-- TAKE_R(c, frame, len): `len = -1` if and only if no frame was taken. -/
  | takeR (c : Nat) (frame : Bytes) (len : Int)
  /-- XMIT_R(t, code). -/
  | xmitR (t : Nat) (code : XmitCode)
  /-- TXBYTES(t, raw): bytes handed to the transmit stream. -/
  | txbytes (t : Nat) (raw : Bytes)
  /-- FEED_R(None) or FEED_R(Some(frame)). -/
  | feedR (frame : Option Bytes)
  /-- The call `decode(raw)` on interface CODEC (rule R13). -/
  | decodeCall (raw : Bytes)
  /-- The call `encode(payload)` on interface CODEC (rule R13). -/
  | encodeCall (payload : Bytes)
  deriving DecidableEq, Repr

/-- The error conditions X1 to X4 of rule R200, which OMFS survives. X5 is outside OMFS (rule R205) and X6 is a
refusal (rule R206). -/
inductive ErrorCause where
  /-- X1, FormatError on decode. -/
  | formatDecode
  /-- X2, FormatError on encode for caller `t`. -/
  | formatEncode (t : Nat)
  /-- X3, TransportError on read. -/
  | transportRead
  /-- X4, TransportError on write for caller `t`. -/
  | transportWrite (t : Nat)
  deriving DecidableEq, Repr

/-! ### The state -/

/-- The state of the machine. The first seven fields are the whole record of rule R20. The last four are the model's
own: the spec's steps read their labels from the environment and hand responses to it, and this is where a
deterministic step function keeps both (assumption log 1, 2, 6, 7). -/
structure State where
  /-- `sy.*`. -/
  sy : Sync
  /-- `rx.*`. -/
  rx : Rxseq
  /-- `stop`, the StopFlag (rule R29). -/
  stop : Bool
  /-- `ib.*`. -/
  ib : Inbox
  /-- `st.*`. -/
  st : Stats
  /-- `tx.*`. -/
  tx : Tx
  /-- `mark.tx_overlap`, sticky (rule R36). -/
  txOverlap : Bool
  /-- MODEL'S OWN: the EW32 words of the events still to come, which the step reads. -/
  trace : List Word
  /-- MODEL'S OWN: every response emitted so far, oldest first. -/
  out : List Response
  /-- MODEL'S OWN: the bytes that have gone out on the line so far; none once `mark.tx_overlap` is set, since from then on
  the spec says nothing of the stream (rules R36, R178; assumption log 6). -/
  line : Option Bytes
  /-- MODEL'S OWN: how many free values have been used. -/
  drawn : Nat
  deriving DecidableEq, Repr

/-! ### Why a step can stop -/

/-- A step from a state that no run reaches. Each is raised by RXSTEP alone, where rules R27 and R28 say that the data
its phase needs is there. Safe: the model stops where the spec has no rule, and `Safety.lean`'s invariant rules the
states out. -/
inductive Fault where
  /-- RXSTEP in FEEDING with an empty `rx.chunk`; against rule R27. Safe. -/
  | feedingWithoutChunk
  /-- RXSTEP in DECODING with no `rx.raw`; against rule R28. Safe. -/
  | decodingWithoutFrame
  /-- RXSTEP in PUBLISHING with no `rx.pay`; against rule R28. Safe. -/
  | publishingWithoutPayload
  deriving DecidableEq, Repr

/-- The spec's `refuse` (rules R14, R81, R206): the event has no step in this state. All safe: the spec gives a refused
event no state change and the run no meaning. -/
inductive Refusal where
  /-- An instruction without a meaning in this model. Raised by `exec` alone; no arm raises it now. Safe. -/
  | notModelled (mnemonic : String)
  /-- The words offered are no event (rules R79, R81). Raised by `step`. Safe. -/
  | reserved (why : Reserved)
  /-- TAKE or TAKEEND with `c >= NCONS` (rule R81). Safe. -/
  | noSuchConsumer (c : Nat)
  /-- XMIT or TXSTEP with `t >= NTX` (rule R81). Safe. -/
  | noSuchCaller (t : Nat)
  /-- RXSTEP or PUB with a waiter choice that breaks rule R82. Safe. -/
  | waiterChoice (w : Option Nat)
  /-- TXSTEP with `wok = 1` in T_ENC (rule R83). Safe. -/
  | verdictBeforeWrite (t : Nat)
  /-- START, FEED or PUB with `rx.phase` not OFF (rules R190, R106, R141). Safe. -/
  | phaseNotOff
  /-- RXDATA or RXERR with `rx.phase` not POLL (rules R122, R123). Safe. -/
  | phaseNotPoll
  /-- RXSTEP in OFF, POLL or EXITED (rule R127). Safe. -/
  | loopNotStepping
  /-- TAKE on a consumer that is not in C_IDLE (rule R142). Safe. -/
  | consumerBusy (c : Nat)
  /-- TAKEEND on a consumer in C_IDLE (rule R144). Safe. -/
  | consumerIdle (c : Nat)
  /-- TAKEEND on a consumer in C_WAIT(k), k > 0 (rules R144, R145). Safe. -/
  | consumerWaiting (c : Nat)
  /-- XMIT on a caller that is not in T_IDLE (rule R175). Safe. -/
  | callerBusy (t : Nat)
  /-- TXSTEP on a caller in T_IDLE (rules R176, R177). Safe. -/
  | callerIdle (t : Nat)
  deriving DecidableEq, Repr

/-! ### Reset -/

/-- SYNC at reset: cold, nothing held (rule R231). -/
def Sync.reset : Sync := { state := .idle, prev := none, buf := [] }

/-- RXSEQ at reset: no loop, nothing held (rule R231). -/
def Rxseq.reset : Rxseq := { phase := .off, chunk := [], raw := none, pay := none }

/-- The inbox at reset: empty, every consumer in C_IDLE (rule R231). -/
def Inbox.reset : Inbox := { slot := none, cons := List.replicate Config.ncons .idle }

/-- TXPATH at reset: every caller in T_IDLE (rule R231). -/
def Tx.reset : Tx := { ctx := List.replicate Config.ntx .idle }

/-- The state after reset: every element of rule R20 at the value of that table's reset column (rules R230, R231); the
model's own fields hold nothing (assumption log 1, 2, 6, 7). -/
def State.reset : State :=
  { sy := Sync.reset
    rx := Rxseq.reset
    stop := false
    ib := Inbox.reset
    st := Stats.zero
    tx := Tx.reset
    txOverlap := false
    trace := []
    out := []
    line := some []
    drawn := 0 }

end Sys2Proof.Machine
end

