-- ==== Sys2Proof/Machine/Operands.lean ====
section
/-! DEFINITION. What an operand means against the state: the waiter choice of rule R82, the timeout of rule R87, and the
binary and numeric forms of the response fields (rules R75, R76, decision D13). -/

namespace Sys2Proof.Machine

/-- `C_WAIT(k)` for some `k >= 0`: a member of the waiter set `W` of rules R82 and R140. -/
def Cons.isWaiting : Cons → Bool
  | .idle => false
  | .wait _ => true
  | .notified => false

/-- Consumer `c` is in the waiter set `W` (rule R82). -/
def isWaiter (cons : List Cons) (c : Nat) : Bool :=
  match cons[c]? with
  | some k => k.isWaiting
  | none => false

/-- Rule R82 for a publish: with a waiter, the choice names one; with none, it is 0xF. -/
def waiterLegal (cons : List Cons) : Option Nat → Bool
  | none => !cons.any Cons.isWaiting
  | some c => isWaiter cons c

/-- `N = ceil(timeout / TICK_PERIOD)`, both durations as numbers of one common unit of time (rules R10, R87). -/
def timeoutTicks (tickPeriod timeout : Nat) : Nat := (timeout + tickPeriod - 1) / tickPeriod

/-- The numbers of XMIT_R's codes (rule R76). -/
def XmitCode.number : XmitCode → Nat
  | .ok => 0
  | .encodeError => 1
  | .writeError => 2

/-- TAKE_R's `len` on a port of `width` bits: two's complement, -1 all ones (rule R75, decision D13). DESIGN CHOICE, safe:
of a `len` that does not fit, on which the spec is silent, this is the low `width` bits (assumption log 18). -/
def lenField (width : Nat) (len : Int) : BitVec width := BitVec.ofInt width len

/-- ALIVE_R's field as the number 0 or 1 (rule R192). -/
def aliveNumber (a : Bool) : Nat := a.toNat

/-- SNAP_R's six numbers in order (rule R77). -/
def Stats.toList (st : Stats) : List Nat :=
  [st.txTotal, st.txGood, st.txBad, st.rxTotal, st.rxGood, st.rxBad]

/-- The interface a response leaves on (rule R13). -/
def Response.interface : Response → Interface
  | .snapR _ => .ctl
  | .aliveR _ => .ctl
  | .xclose => .rxs
  | .takeR c _ _ => .con c
  | .xmitR t _ => .txp t
  | .txbytes _ _ => .txs
  | .feedR _ => .tst
  | .decodeCall _ => .codec
  | .encodeCall _ => .codec

end Sys2Proof.Machine
end

