-- ==== Sys2Proof/Machine/Flags.lean ====
section
/-! DEFINITION. The flags of rule R38: `stop`, the derived `alive`, the mark `C_NOTIFIED` and `mark.tx_overlap`. OMFS has
no arithmetic condition codes. -/

namespace Sys2Proof.Machine

/-- The Transport Loop is running (rules R30, R192). -/
def Phase.alive : Phase → Bool
  | .off => false
  | .top => true
  | .poll => true
  | .feeding => true
  | .decoding => true
  | .publishing => true
  | .exited => false

/-- `alive`, a function of `rx.phase` and not a stored element (rule R30). -/
def State.alive (s : State) : Bool := s.rx.phase.alive

/-- `stop <- true` (rules R29, R191). -/
def State.setStop (s : State) : State := { s with stop := true }

/-- `C_NOTIFIED` on the chosen waiter, if there is one (rule R140). -/
def notify (cons : List Cons) : Option Nat → List Cons
  | none => cons
  | some c => cons.set c .notified

/-- `T_WR(_)` (rule R35). -/
def TxCtx.isWriting : TxCtx → Bool
  | .idle => false
  | .enc _ => false
  | .wr _ => true

/-- Some other `u != t` has `tx.ctx[u] = T_WR(_)` (rules R176, R178). -/
def anotherWrites (ctx : List TxCtx) (t : Nat) : Bool := (ctx.set t .idle).any TxCtx.isWriting

/-- SYNC is cold: idle, and the last byte fed was not an unused delimiter (rule R111). -/
def Sync.isCold (flag : Byte) (sy : Sync) : Bool := sy.state == .idle && sy.prev != some flag

/-- SYNC is armed: idle, and a data byte would start a frame (rule R111). -/
def Sync.isArmed (flag : Byte) (sy : Sync) : Bool := sy.state == .idle && sy.prev == some flag

/-- SYNC is assembling a frame; rule R111 calls this state open. -/
def Sync.isAssembling (sy : Sync) : Bool := sy.state == .receiving

end Sys2Proof.Machine
end

