-- ==== Sys2Proof/Machine/Ops.lean ====
section
/-! DEFINITION. The named operations the meanings are written over: responses, elements written one at a time, counters,
the transmit stream and its free values, the publish function, and taking an error (rules R201 to R204). -/

namespace Sys2Proof.Machine

/-- `respond r` (rule R14): the record joins the responses emitted so far. -/
def State.respond (r : Response) (s : State) : State := { s with out := s.out ++ [r] }

/-- `rx.phase <- p`. -/
def State.setPhase (p : Phase) (s : State) : State := { s with rx := { s.rx with phase := p } }

/-- `rx.chunk <- bs`. -/
def State.setChunk (bs : Bytes) (s : State) : State := { s with rx := { s.rx with chunk := bs } }

/-- `rx.raw <- f`. -/
def State.setRaw (f : Option Bytes) (s : State) : State := { s with rx := { s.rx with raw := f } }

/-- `rx.pay <- p`. -/
def State.setPay (p : Option Bytes) (s : State) : State := { s with rx := { s.rx with pay := p } }

/-- `sy.* <- sy`. -/
def State.setSync (sy : Sync) (s : State) : State := { s with sy := sy }

/-- `ib.slot <- p`. -/
def State.setSlot (p : Option Bytes) (s : State) : State := { s with ib := { s.ib with slot := p } }

/-- `ib.cons[c] <- k`. -/
def State.setCons (c : Nat) (k : Cons) (s : State) : State :=
  { s with ib := { s.ib with cons := s.ib.cons.set c k } }

/-- `tx.ctx[t] <- k`. -/
def State.setCtx (t : Nat) (k : TxCtx) (s : State) : State :=
  { s with tx := { s.tx with ctx := s.tx.ctx.set t k } }

/-- `st.X <- st.X + 1` on one counter, exact (rule R160). -/
def Stats.increment (st : Stats) : Counter → Stats
  | .txTotal => { st with txTotal := st.txTotal + 1 }
  | .txGood => { st with txGood := st.txGood + 1 }
  | .txBad => { st with txBad := st.txBad + 1 }
  | .rxTotal => { st with rxTotal := st.rxTotal + 1 }
  | .rxGood => { st with rxGood := st.rxGood + 1 }
  | .rxBad => { st with rxBad := st.rxBad + 1 }

/-- One counter, by name. -/
def Stats.get (st : Stats) : Counter → Nat
  | .txTotal => st.txTotal
  | .txGood => st.txGood
  | .txBad => st.txBad
  | .rxTotal => st.rxTotal
  | .rxGood => st.rxGood
  | .rxBad => st.rxBad

/-- The increment primitive on the state (rule R160). -/
def State.count (X : Counter) (s : State) : State := { s with st := s.st.increment X }

/-- NEXT of rule R120: where the loop goes after a frame is dealt with. -/
def phaseAfterFrame (chunk : Bytes) : Phase := if chunk = [] then .top else .feeding

/-- `rx.phase <- (FEEDING if rx.chunk != [] else TOP)` (rules R125, R126). -/
def State.resumeLoop (s : State) : State := s.setPhase (phaseAfterFrame s.rx.chunk)

/-! ### The transmit stream -/

/-- `mark.tx_overlap <- true`; from here on the model holds no content of the transmit stream (rules R36, R178). -/
def State.markOverlap (s : State) : State := { s with txOverlap := true, line := none }

/-- What a successful write of `raw` puts on the transmit stream: `raw`, whole and in order (rule R177); a free value
once `mark.tx_overlap` is set (rule R178). -/
def State.streamed (raw : Bytes) (s : State) : Bytes :=
  if s.txOverlap then Config.freeBytes s.drawn else raw

/-- What of a failed write of `raw` reached the line: any prefix of `raw`, so a free length (rule R177, decision D24). -/
def State.leaked (raw : Bytes) (s : State) : Bytes := raw.take (Config.freeLength s.drawn)

/-- The line once `bs` has been handed to it: `bs` behind what was there; none once `mark.tx_overlap` is set (rule R178,
assumption log 6). -/
def State.lineAfter (bs : Bytes) (s : State) : Option Bytes :=
  if s.txOverlap then none else s.line.map (· ++ bs)

/-- `bs` is handed to the line; the free value that a write may need is used up. -/
def State.putLine (bs : Bytes) (s : State) : State :=
  { s with line := s.lineAfter bs, drawn := s.drawn + 1 }

/-! ### Publish -/

/-- `publish(p, w)` (rule R140): the slot is overwritten and the chosen waiter, if any, is notified. -/
def State.publish (p : Bytes) (w : Option Nat) (s : State) : State :=
  { s with ib := { slot := some p, cons := notify s.ib.cons w } }

/-! ### Taking an error -/

/-- The state change of each error that OMFS survives, complete as rules R201 to R204 list it. Nothing is saved, no mode
changes and no handler runs (rule R209); the return is the state reached (rule R210). -/
def State.takeError (e : ErrorCause) (s : State) : State :=
  match e with
  | .formatDecode => ((s.setRaw none).count .rxBad).resumeLoop
  | .formatEncode t => ((s.count .txBad).setCtx t .idle).respond (.xmitR t .encodeError)
  | .transportRead => (s.setStop.setPhase .exited).respond .xclose
  | .transportWrite t => ((s.count .txBad).setCtx t .idle).respond (.xmitR t .writeError)

end Sys2Proof.Machine
end

