-- ==== Sys2Proof/Machine/Control.lean ====
section
/-! DEFINITION. CTRL: START, STOP and ALIVE (rules R190 to R192). -/

namespace Sys2Proof.Machine

/-- START (rule R190): the Transport Loop begins. -/
def execStart (s : State) : Host.Outcome State Fault Refusal :=
  if s.rx.phase = .off then .next (s.setPhase .top) else .refused .phaseNotOff

/-- STOP (rule R191): `stop <- true`, always enabled. -/
def execStop (s : State) : Host.Outcome State Fault Refusal :=
  .next s.setStop

/-- ALIVE (rule R192): respond whether the loop is running, always enabled. -/
def execAlive (s : State) : Host.Outcome State Fault Refusal :=
  .next (s.respond (.aliveR s.alive))

end Sys2Proof.Machine
end

