-- ==== Sys2Proof/Machine/Mailbox.lean ====
section
/-! DEFINITION. INBOX, the single-slot mailbox: TAKE, TAKEEND, TICK and the test-access event PUB (rules R140 to R144). -/

namespace Sys2Proof.Machine

/-- TAKE c, N (rule R142): the wait begins; the slot is not looked at. -/
def execTake (c n : Nat) (s : State) : Host.Outcome State Fault Refusal :=
  match s.ib.cons[c]? with
  | none => .refused (.noSuchConsumer c)
  | some .idle => .next (s.setCons c (.wait n))
  | some (.wait _) => .refused (.consumerBusy c)
  | some .notified => .refused (.consumerBusy c)

/-- The resumption of consumer `c` (rule R144): the slot is read and cleared, and the consumer is idle again. -/
def resume (c : Nat) (s : State) : State :=
  match s.ib.slot with
  | some p => ((s.setSlot none).respond (.takeR c p p.length)).setCons c .idle
  | none => (s.respond (.takeR c [] (-1))).setCons c .idle

/-- TAKEEND c (rule R144): enabled when notified or timed out. -/
def execTakeend (c : Nat) (s : State) : Host.Outcome State Fault Refusal :=
  match s.ib.cons[c]? with
  | none => .refused (.noSuchConsumer c)
  | some .idle => .refused (.consumerIdle c)
  | some .notified => .next (resume c s)
  | some (.wait 0) => .next (resume c s)
  | some (.wait (_ + 1)) => .refused (.consumerWaiting c)

/-- One tick for one consumer: `C_WAIT(k)` with `k > 0` counts down, all else stays (rule R143). -/
def Cons.tick : Cons → Cons
  | .idle => .idle
  | .wait k => .wait (k - 1)
  | .notified => .notified

/-- TICK (rule R143): all waiting consumers count down together, always enabled. -/
def execTick (s : State) : Host.Outcome State Fault Refusal :=
  .next { s with ib := { s.ib with cons := s.ib.cons.map Cons.tick } }

/-- PUB w, p (rule R141): publish, while no Transport Loop exists. -/
def execPub (w : Option Nat) (p : Bytes) (s : State) : Host.Outcome State Fault Refusal :=
  if s.rx.phase = .off then
    if waiterLegal s.ib.cons w then .next (s.publish p w) else .refused (.waiterChoice w)
  else .refused .phaseNotOff

end Sys2Proof.Machine
end

