-- ==== Sys2Proof/Machine/Synchronizer.lean ====
section
/-! DEFINITION. SYNC, the frame synchronizer: the feed function (rules R100 to R104), its iteration over a byte
sequence, and the test-access event FEED (rule R106). -/

namespace Sys2Proof.Machine

/-- `feed(b)` (rule R100): cases START, DATA, CLOSE, SKIP in that order (rules R101 to R104). The second component is
the raw frame that case CLOSE emits. -/
def Sync.feed (flag : Byte) (sy : Sync) (b : Byte) : Sync × Option Bytes :=
  if sy.state = .idle ∧ sy.prev = some flag ∧ b ≠ flag then
    ({ state := .receiving, prev := some b, buf := [flag, b] }, none)
  else if sy.state = .receiving ∧ b ≠ flag then
    ({ sy with prev := some b, buf := sy.buf ++ [b] }, none)
  else if sy.state = .receiving ∧ b = flag then
    ({ state := .idle, prev := none, buf := [] }, some (sy.buf ++ [flag]))
  else
    ({ sy with prev := some b }, none)

/-- `feed` over a byte sequence: the state after it and the frames emitted, in order. -/
def Sync.feedAll (flag : Byte) : Sync → Bytes → Sync × List Bytes
  | sy, [] => (sy, [])
  | sy, b :: bs =>
    let r := Sync.feed flag sy b
    let rest := Sync.feedAll flag r.1 bs
    (rest.1, r.2.toList ++ rest.2)

/-- FEED for a given delimiter (rule R106): touches `sy.*` only, and responds FEED_R. -/
def feedEvent (flag : Byte) (b : Byte) (s : State) : Host.Outcome State Fault Refusal :=
  if s.rx.phase = .off then
    .next ((s.setSync (s.sy.feed flag b).1).respond (.feedR (s.sy.feed flag b).2))
  else .refused .phaseNotOff

/-- FEED b (rule R106). -/
def execFeed (b : Byte) (s : State) : Host.Outcome State Fault Refusal :=
  feedEvent Config.flag b s

end Sys2Proof.Machine
end

