-- ==== Sys2Proof/Machine/Sequencer.lean ====
section
/-! DEFINITION. RXSEQ, the receive sequencer: RXDATA, RXERR and the four phases of RXSTEP (rules R120 to R127). -/

namespace Sys2Proof.Machine

/-- RXDATA bs (rule R122): an empty chunk goes round again, another is fed. -/
def execRxdata (bs : Bytes) (s : State) : Host.Outcome State Fault Refusal :=
  if s.rx.phase = .poll then
    if bs = [] then .next (s.setPhase .top)
    else .next ((s.setChunk bs).setPhase .feeding)
  else .refused .phaseNotPoll

/-- RXERR (rules R123, R203): the exception TransportError on read. -/
def execRxerr (s : State) : Host.Outcome State Fault Refusal :=
  if s.rx.phase = .poll then .next (s.takeError .transportRead) else .refused .phaseNotPoll

/-- RXSTEP in TOP (rule R121): the stop test. -/
def topStep (s : State) : State :=
  if s.stop then (s.setPhase .exited).respond .xclose else s.setPhase .poll

/-- RXSTEP in FEEDING (rule R124): feed the byte `b`, `rest` being the chunk behind it. -/
def feedStep (flag : Byte) (b : Byte) (rest : Bytes) (s : State) : State :=
  let s' := (s.setChunk rest).setSync (s.sy.feed flag b).1
  match (s.sy.feed flag b).2 with
  | some f => ((s'.count .rxTotal).setRaw (some f)).setPhase .decoding
  | none => s'.resumeLoop

/-- RXSTEP in DECODING (rules R125, R201) behind its call on CODEC, given what `decode` answers of the frame. -/
def decodeStep (answer : CodecResult) (s : State) : State :=
  match answer with
  | .ok p => (((s.setRaw none).count .rxGood).setPay (some p)).setPhase .publishing
  | .formatError => s.takeError .formatDecode

/-- RXSTEP in PUBLISHING (rule R126): publish the payload `p` with the waiter choice `w`. -/
def publishStep (p : Bytes) (w : Option Nat) (s : State) : State :=
  ((s.publish p w).setPay none).resumeLoop

/-- RXSTEP for a given delimiter and `decode` (rules R121, R124 to R127). Outside PUBLISHING the waiter choice must be
none (rule R82). -/
def rxstepEvent (flag : Byte) (decode : Bytes → CodecResult) (w : Option Nat) (s : State) :
    Host.Outcome State Fault Refusal :=
  match s.rx.phase with
  | .off => .refused .loopNotStepping
  | .poll => .refused .loopNotStepping
  | .exited => .refused .loopNotStepping
  | .top => if w = none then .next (topStep s) else .refused (.waiterChoice w)
  | .feeding =>
    if w = none then
      match s.rx.chunk with
      | [] => .fault .feedingWithoutChunk
      | b :: rest => .next (feedStep flag b rest s)
    else .refused (.waiterChoice w)
  | .decoding =>
    if w = none then
      match s.rx.raw with
      | none => .fault .decodingWithoutFrame
      | some f => .next (decodeStep (decode f) (s.respond (.decodeCall f)))
    else .refused (.waiterChoice w)
  | .publishing =>
    if waiterLegal s.ib.cons w then
      match s.rx.pay with
      | none => .fault .publishingWithoutPayload
      | some p => .next (publishStep p w s)
    else .refused (.waiterChoice w)

/-- RXSTEP w (rules R121, R124 to R127). -/
def execRxstep (w : Option Nat) (s : State) : Host.Outcome State Fault Refusal :=
  rxstepEvent Config.flag Config.decode w s

end Sys2Proof.Machine
end

