-- ==== Sys2Proof/Machine/Statistics.lean ====
section
/-! DEFINITION. STATS: SNAP and CLEAR (rules R161, R162). The increment primitive is `State.count`. -/

namespace Sys2Proof.Machine

/-- CLEAR (rule R162): the six counters to 0 in one step, nothing else, always enabled. -/
def execClear (s : State) : Host.Outcome State Fault Refusal :=
  .next { s with st := Stats.zero }

/-- SNAP (rule R161) with `SNAPSHOT_ATOMIC = true`, this hardware's value (rule R11): the six counters of this state. -/
def execSnap (s : State) : Host.Outcome State Fault Refusal :=
  .next (s.respond (.snapR s.st))

end Sys2Proof.Machine
end

