-- ==== Sys2Proof/Machine/Transmit.lean ====
section
/-! DEFINITION. TXPATH, the transmit path: XMIT and the two phases of TXSTEP (rules R175 to R178). -/

namespace Sys2Proof.Machine

/-- XMIT t, p (rule R175): counted before anything can fail, then the payload is latched. -/
def execXmit (t : Nat) (p : Bytes) (s : State) : Host.Outcome State Fault Refusal :=
  match s.tx.ctx[t]? with
  | none => .refused (.noSuchCaller t)
  | some .idle => .next ((s.count .txTotal).setCtx t (.enc p))
  | some (.enc _) => .refused (.callerBusy t)
  | some (.wr _) => .refused (.callerBusy t)

/-- TXSTEP in T_ENC (rules R176, R202) behind its call on CODEC, given what `encode` answers of the payload. -/
def encodeStep (answer : CodecResult) (t : Nat) (s : State) : State :=
  match answer with
  | .formatError => s.takeError (.formatEncode t)
  | .ok raw =>
    if anotherWrites s.tx.ctx t then (s.setCtx t (.wr raw)).markOverlap else s.setCtx t (.wr raw)

/-- TXSTEP in T_WR (rules R177, R204), with the transport's verdict. After an overlap the bytes of the TXBYTES record are
a free value and there is no line (rule R178, assumption log 6). -/
def writeStep (raw : Bytes) (t : Nat) (wok : Bool) (s : State) : State :=
  if wok then
    ((((s.respond (.txbytes t (s.streamed raw))).putLine (s.streamed raw)).count .txGood).respond
      (.xmitR t .ok)).setCtx t .idle
  else (s.putLine (s.leaked raw)).takeError (.transportWrite t)

/-- TXSTEP for a given `encode` (rules R176, R177). In T_ENC no write happens, so `wok` must be 0 (rule R83). -/
def txstepEvent (encode : Bytes → CodecResult) (t : Nat) (wok : Bool) (s : State) :
    Host.Outcome State Fault Refusal :=
  match s.tx.ctx[t]? with
  | none => .refused (.noSuchCaller t)
  | some .idle => .refused (.callerIdle t)
  | some (.enc p) =>
    if wok then .refused (.verdictBeforeWrite t)
    else .next (encodeStep (encode p) t (s.respond (.encodeCall p)))
  | some (.wr raw) => .next (writeStep raw t wok s)

/-- TXSTEP t (rules R176, R177). -/
def execTxstep (t : Nat) (wok : Bool) (s : State) : Host.Outcome State Fault Refusal :=
  txstepEvent Config.encode t wok s

end Sys2Proof.Machine
end

