-- ==== Sys2Proof/Machine/Dispatch.lean ====
section
/-! DEFINITION. The dispatch of an instruction to its meaning, one arm per constructor. -/

namespace Sys2Proof.Machine

def exec (i : Instr) (s : State) : Host.Outcome State Fault Refusal :=
  match i with
  | .start => Sys2Proof.Machine.execStart s
  | .stop => Sys2Proof.Machine.execStop s
  | .clear => Sys2Proof.Machine.execClear s
  | .snap => Sys2Proof.Machine.execSnap s
  | .alive => Sys2Proof.Machine.execAlive s
  | .rxdata bs => Sys2Proof.Machine.execRxdata bs s
  | .rxerr => Sys2Proof.Machine.execRxerr s
  | .rxstep w => Sys2Proof.Machine.execRxstep w s
  | .take c n => Sys2Proof.Machine.execTake c n s
  | .takeend c => Sys2Proof.Machine.execTakeend c s
  | .tick => Sys2Proof.Machine.execTick s
  | .xmit t p => Sys2Proof.Machine.execXmit t p s
  | .txstep t wok => Sys2Proof.Machine.execTxstep t wok s
  | .feed b => Sys2Proof.Machine.execFeed b s
  | .pub w p => Sys2Proof.Machine.execPub w p s

end Sys2Proof.Machine
end

