-- ==== Sys2Proof/Machine/Step.lean ====
section
/-! DEFINITION. One step: the event at the front of the trace is decoded and performed (rules R12, R79, R81). -/

namespace Sys2Proof.Machine

/-- One step of the labelled transition system (rule R12): the next event's words are read off the trace and its label
performed. Words that are no event, and labels that are not enabled, are refused (rule R81). -/
def step (s : State) : Host.Outcome State Fault Refusal :=
  match decode s.trace with
  | .error e => .refused (.reserved e)
  | .ok (i, rest) => exec i { s with trace := rest }

/-- `s` with the event whose bits are the low `nbits` bits of `w` as the next one the step reads. -/
def State.withFetchWord (s : State) (nbits w : Nat) : State :=
  { s with trace := tableWords nbits w ++ s.trace }

end Sys2Proof.Machine
end

