-- ==== Sys2Proof/Safety.lean ====
section
/-! DEFINITION. The vocabulary of claims: the invariants of rules R24, R27, R28 and R34, the shape of a raw frame (rule
R71), the phase graph (rule R120), runs of labels (rule R12), and the bounds within which a build is faithful (rule R9). -/

namespace Sys2Proof.Machine

/-! ### Raw frames and the synchronizer -/

/-- A raw frame (rule R71): a delimiter, at least one byte none of which is a delimiter, a delimiter. -/
def RawFrame (flag : Byte) (f : Bytes) : Prop :=
  ∃ d : Bytes, d ≠ [] ∧ flag ∉ d ∧ f = [flag] ++ d ++ [flag]

/-- Rule R24 (a) and (b). In RECEIVING the buffer is the delimiter and then at least one data byte and no other
delimiter, and `sy.prev` holds its last byte; in IDLE the buffer is empty. -/
def SyncInv (flag : Byte) (sy : Sync) : Prop :=
  (sy.state = .receiving →
    2 ≤ sy.buf.length ∧ sy.buf.head? = some flag ∧ flag ∉ sy.buf.tail ∧ sy.prev = sy.buf.getLast?) ∧
  (sy.state = .idle → sy.buf = [])

/-- Every raw frame that waits for `decode` or that FEED has responded has the shape of rule R71. -/
def FramesInv (flag : Byte) (s : State) : Prop :=
  (∀ f, s.rx.raw = some f → RawFrame flag f) ∧ (∀ f, Response.feedR (some f) ∈ s.out → RawFrame flag f)

/-- One group `x* F+ x+ F` of the stream grammar (rule R72): dropped bytes, idle markers before the opening delimiter,
and the interior of the frame. -/
structure StreamGroup where
  dropped : Bytes
  markers : Nat
  interior : Bytes
  deriving DecidableEq, Repr

/-- The group's dropped bytes and interior hold no delimiter, and the interior is not empty. -/
def StreamGroup.proper (flag : Byte) (g : StreamGroup) : Prop :=
  flag ∉ g.dropped ∧ flag ∉ g.interior ∧ g.interior ≠ []

/-- The bytes of a group: `F+` is `markers` idle markers and the opening delimiter. -/
def StreamGroup.stream (flag : Byte) (g : StreamGroup) : Bytes :=
  g.dropped ++ (List.replicate (g.markers + 1) flag ++ (g.interior ++ [flag]))

/-- The one frame of a group. -/
def StreamGroup.frame (flag : Byte) (g : StreamGroup) : Bytes := [flag] ++ g.interior ++ [flag]

/-- What may stand behind the last group (rule R72): `x*`, then perhaps `F+`, then perhaps `x+`. -/
structure StreamTail where
  dropped : Bytes
  delimiters : Nat
  partialFrame : Bytes
  deriving DecidableEq, Repr

/-- The tail's data bytes are data bytes, and a partial frame has an opening delimiter. -/
def StreamTail.proper (flag : Byte) (t : StreamTail) : Prop :=
  flag ∉ t.dropped ∧ flag ∉ t.partialFrame ∧ (t.delimiters = 0 → t.partialFrame = [])

/-- The bytes of a tail. -/
def StreamTail.stream (flag : Byte) (t : StreamTail) : Bytes :=
  t.dropped ++ (List.replicate t.delimiters flag ++ t.partialFrame)

/-! ### The receive sequencer -/

/-- Rules R27 and R28: which phase holds which data. -/
def RxInv (rx : Rxseq) : Prop :=
  (rx.phase = .off ∨ rx.phase = .top ∨ rx.phase = .poll ∨ rx.phase = .exited → rx.chunk = []) ∧
  (rx.phase = .feeding → rx.chunk ≠ []) ∧
  (rx.raw ≠ none ↔ rx.phase = .decoding) ∧
  (rx.pay ≠ none ↔ rx.phase = .publishing)

/-- The edges of the phase graph (rule R120), each with the label that moves along it. -/
inductive PhaseEdge : Instr → Phase → Phase → Prop where
  | start : PhaseEdge .start .off .top
  | loopExit : PhaseEdge (.rxstep none) .top .exited
  | loopPoll : PhaseEdge (.rxstep none) .top .poll
  | pollEmpty : PhaseEdge (.rxdata []) .poll .top
  | pollChunk (bs : Bytes) : bs ≠ [] → PhaseEdge (.rxdata bs) .poll .feeding
  | pollError : PhaseEdge .rxerr .poll .exited
  | feedOn : PhaseEdge (.rxstep none) .feeding .feeding
  | feedDone : PhaseEdge (.rxstep none) .feeding .top
  | frameClosed : PhaseEdge (.rxstep none) .feeding .decoding
  | decodeOk : PhaseEdge (.rxstep none) .decoding .publishing
  | decodeBadOn : PhaseEdge (.rxstep none) .decoding .feeding
  | decodeBadDone : PhaseEdge (.rxstep none) .decoding .top
  | publishOn (w : Option Nat) : PhaseEdge (.rxstep w) .publishing .feeding
  | publishDone (w : Option Nat) : PhaseEdge (.rxstep w) .publishing .top

/-! ### Contexts, transmits and counters -/

/-- There is one wait state per consumer and one progress value per caller (rules R8, R20). -/
def ContextsInv (s : State) : Prop :=
  s.ib.cons.length = Config.ncons ∧ s.tx.ctx.length = Config.ntx

/-- Inside `transmit`. -/
def TxCtx.isBusy : TxCtx → Bool
  | .idle => false
  | .enc _ => true
  | .wr _ => true

/-- How many transmits are in flight: contexts that are not T_IDLE (rule R34). -/
def transmitsInFlight (s : State) : Nat := s.tx.ctx.countP TxCtx.isBusy

/-- How many frames are in flight: 1 in DECODING, else 0 (rule R34). -/
def framesInFlight (s : State) : Nat := if s.rx.phase = .decoding then 1 else 0

/-- The counter invariant of rule R34. -/
def CountersBalanced (s : State) : Prop :=
  s.st.rxTotal = s.st.rxGood + s.st.rxBad + framesInFlight s ∧
  s.st.txTotal = s.st.txGood + s.st.txBad + transmitsInFlight s

/-- Unless `mark.tx_overlap` is set, at most one caller is in T_WR (rules R36, R178). -/
def OverlapInv (s : State) : Prop :=
  s.txOverlap = false → s.tx.ctx.countP TxCtx.isWriting ≤ 1

/-- The bytes of the TXBYTES records among some responses, in order. -/
def streamOf : List Response → Bytes
  | [] => []
  | .txbytes _ raw :: rs => raw ++ streamOf rs
  | _ :: rs => streamOf rs

/-- A write has failed. -/
def hasWriteError (rs : List Response) : Prop := ∃ t, Response.xmitR t .writeError ∈ rs

/-- While no transmits have overlapped and no write has failed, the line carries exactly the TXBYTES in order; once
transmits have overlapped the model holds no line (rule R178). -/
def LineInv (s : State) : Prop :=
  (s.txOverlap = false → ¬ hasWriteError s.out → s.line = some (streamOf s.out)) ∧
  (s.txOverlap = true → s.line = none)

/-- How many XMIT_R records of caller `t` stand among some responses. -/
def xmitResponses (t : Nat) : List Response → Nat
  | [] => 0
  | .xmitR u _ :: rs => (if u = t then 1 else 0) + xmitResponses t rs
  | _ :: rs => xmitResponses t rs

/-- How many XMIT labels of caller `t` stand among some labels. -/
def xmitLabels (t : Nat) : List Instr → Nat
  | [] => 0
  | .xmit u _ :: is => (if u = t then 1 else 0) + xmitLabels t is
  | _ :: is => xmitLabels t is

/-- 1 while caller `t` is inside `transmit`, else 0. -/
def callerInFlight (t : Nat) (s : State) : Nat :=
  match s.tx.ctx[t]? with
  | some k => k.isBusy.toNat
  | none => 0

/-! ### Runs -/

/-- The labels of a list, one after another (rule R12); none where one of them has no step. -/
def runInstrs : List Instr → State → Option State
  | [], s => some s
  | i :: is, s =>
    match exec i s with
    | .next t => runInstrs is t
    | .fault _ => none
    | .refused _ => none

/-- The frame that a label publishes in a state, if it publishes one (rules R126, R140, R141). -/
def publishes (i : Instr) (s : State) : Option Bytes :=
  match i with
  | .pub _ p => some p
  | .rxstep _ => if s.rx.phase = .publishing then s.rx.pay else none
  | .start => none
  | .stop => none
  | .clear => none
  | .snap => none
  | .alive => none
  | .rxdata _ => none
  | .rxerr => none
  | .take _ _ => none
  | .takeend _ => none
  | .tick => none
  | .xmit _ _ => none
  | .txstep _ _ => none
  | .feed _ => none

/-- Any number of steps of which none is a publish and none a TAKEEND (rule R148). -/
inductive QuietRun : State → State → Prop where
  | here (s : State) : QuietRun s s
  | step (i : Instr) (s t u : State) : publishes i s = none → (∀ c, i ≠ .takeend c) → exec i s = .next t →
      QuietRun t u → QuietRun s u

/-! ### Builds -/

/-- The bounds of a build with buffers of `maxRaw` bytes and counters of `cntW` bits: it is faithful only on runs whose
states all lie within them (rule R9, decision D6). -/
def State.withinBuild (maxRaw cntW : Nat) (s : State) : Prop :=
  s.sy.buf.length ≤ maxRaw ∧ s.rx.chunk.length ≤ maxRaw ∧
  (∀ f, s.rx.raw = some f → f.length ≤ maxRaw) ∧ (∀ p, s.rx.pay = some p → p.length ≤ maxRaw) ∧
  (∀ p, s.ib.slot = some p → p.length ≤ maxRaw) ∧ ∀ n ∈ s.st.toList, n < 2 ^ cntW

end Sys2Proof.Machine
end

