-- ==== Sys2Proof/WellFormed.lean ====
section
/-! DEFINITION. Which instructions EW32 can write (`Instr.fits`) and which of those name contexts that exist
(`Instr.wf`). What rules R82 and R83 ask of a waiter choice or a verdict depends on the state and is checked by the
meanings. -/

namespace Sys2Proof

/-- `bits[23:0]` can hold `n` (rule R78). -/
def fitsArg (n : Nat) : Bool := decide (n < 2 ^ 24)

/-- `bits[27:24]` can hold `n` (rule R78). -/
def fitsId (n : Nat) : Bool := decide (n < 16)

/-- A waiter choice that `id` can carry: a consumer below 15, or none, which is written 0xF (rule R82). -/
def fitsWaiter : Option Nat → Bool
  | none => true
  | some c => decide (c < 15)

/-- Every operand fits the field EW32 gives it (rules R78, R79, R80). -/
def Instr.fits : Instr → Bool
  | .start => true
  | .stop => true
  | .clear => true
  | .snap => true
  | .alive => true
  | .rxdata bs => fitsArg bs.length
  | .rxerr => true
  | .rxstep w => fitsWaiter w
  | .take c n => fitsId c && fitsArg n
  | .takeend c => fitsId c
  | .tick => true
  | .xmit t p => fitsId t && fitsArg p.length
  | .txstep t _ => fitsId t
  | .feed _ => true
  | .pub w p => fitsWaiter w && fitsArg p.length

/-- A waiter choice names no consumer outside `ncons` contexts (rule R82). -/
def waiterWithin (ncons : Nat) : Option Nat → Bool
  | none => true
  | some c => decide (c < ncons)

/-- Every context an instruction names exists among `ncons` consumers and `ntx` callers (rule R81). -/
def Instr.namesContexts (ncons ntx : Nat) : Instr → Bool
  | .start => true
  | .stop => true
  | .clear => true
  | .snap => true
  | .alive => true
  | .rxdata _ => true
  | .rxerr => true
  | .rxstep w => waiterWithin ncons w
  | .take c _ => decide (c < ncons)
  | .takeend c => decide (c < ncons)
  | .tick => true
  | .xmit t _ => decide (t < ntx)
  | .txstep t _ => decide (t < ntx)
  | .feed _ => true
  | .pub w _ => waiterWithin ncons w

/-- Well-formed for a build with `ncons` consumers and `ntx` callers. -/
def Instr.wfFor (ncons ntx : Nat) (i : Instr) : Bool := i.fits && i.namesContexts ncons ntx

/-- Well-formed for this build. -/
def Instr.wf (i : Instr) : Bool := i.wfFor Config.ncons Config.ntx

end Sys2Proof
end

