-- ==== Sys2Proof/Certificates/Slice0/Obligations.lean ====
section
/-! DEFINITION. The statements for the provers. Each docstring names the rule of the spec that the statement formalises. -/

open Sys2Proof Sys2Proof.Machine

/-! ### Events and their words -/

/-- Rule R88: the worked encodings, read and written. -/
def Obligations.WorkedEncodingsDecodeAndEncode : Prop :=
  ∀ e ∈ ([(.start, [0x10000000]), (.stop, [0x20000000]), (.clear, [0x30000000]), (.snap, [0x40000000]),
      (.alive, [0x50000000]),
      (.rxdata [0x7E, 0x01, 0x02, 0x7E], [0x60000004, 0x0000007E, 0x00000001, 0x00000002, 0x0000007E]),
      (.rxdata [], [0x60000000]), (.rxerr, [0x70000000]), (.rxstep none, [0x8F000000]),
      (.rxstep (some 0), [0x80000000]), (.rxstep (some 2), [0x82000000]), (.take 0 3, [0x90000003]),
      (.take 1 100, [0x91000064]), (.takeend 1, [0xA1000000]), (.tick, [0xB0000000]),
      (.xmit 0 [0x01, 0x02], [0xC0000002, 0x00000001, 0x00000002]), (.txstep 0 false, [0xD0000000]),
      (.txstep 0 true, [0xD0000001]), (.feed 0x7E, [0xE000007E]), (.feed 0x01, [0xE0000001]),
      (.pub none [0xAA], [0xFF000001, 0x000000AA]), (.pub (some 0) [0xAA], [0xF0000001, 0x000000AA])]
      : List (Instr × List Word)),
    decode e.2 = .ok (e.1, []) ∧ encode e.1 = e.2

/-- Rules R78 to R80: the decoder reads back every instruction that EW32 can write, whatever words follow it. -/
def Obligations.DecodeOfEncodeIsTheInstruction : Prop :=
  ∀ (i : Instr) (rest : List Word), i.fits = true → decode (encode i ++ rest) = .ok (i, rest)

/-- Rules R79 and R80: the decoder accepts no other words than the encoder's, so it rejects `op = 0`, a field that the table
gives as 0 and is not, and high bits of a payload word. What rule R81 says of context numbers, waiter choices and verdicts
is for the meanings (assumption log 4, 13). -/
def Obligations.EncodeOfDecodeIsTheWords : Prop :=
  ∀ (ws rest : List Word) (i : Instr), decode ws = .ok (i, rest) → i.fits = true ∧ encode i ++ rest = ws

/-- Rule R84: an event's length follows from `op` alone. -/
def Obligations.EventLengthFollowsFromOpcode : Prop :=
  ∀ (h : Word) (ws rest : List Word) (i : Instr), decode (h :: ws) = .ok (i, rest) →
    if opField h = 0x6 ∨ opField h = 0xC ∨ opField h = 0xF
    then argField h ≤ ws.length ∧ rest = ws.drop (argField h)
    else rest = ws

/-- Rules R12 and R79: a step performs the label whose words stand at the front of the trace, with those words read.
The trace is the model's own field (assumption log 1). -/
def Obligations.StepPerformsTheDecodedLabel : Prop :=
  ∀ (s : State) (i : Instr) (rest : List Word), decode s.trace = .ok (i, rest) →
    step s = exec i { s with trace := rest }

/-- Rule R81, each kind of reserved event: `op = 0`, a field the table gives as 0 that is not, a payload word with high
bits, a context number that names no context, a waiter choice that breaks rule R82, and `wok = 1` in T_ENC. The clauses on
context numbers compare with the lengths of `ib.cons` and `tx.ctx`, where the model makes this check (assumption log 4); by
rules R8 and R20 the lists have NCONS and NTX entries. -/
def Obligations.ReservedEventsAreRefused : Prop :=
  (∀ (s : State) (h : Word) (ws : List Word), s.trace = h :: ws →
    (opField h = 0x0 ∨
      (opField h ∈ [0x1, 0x2, 0x3, 0x4, 0x5, 0x7, 0xB] ∧ (idField h ≠ 0 ∨ argField h ≠ 0)) ∨
      (opField h = 0x6 ∧ idField h ≠ 0) ∨
      (opField h ∈ [0x8, 0xA] ∧ argField h ≠ 0) ∨
      (opField h = 0xD ∧ bits 23 1 h ≠ 0) ∨
      (opField h = 0xE ∧ (idField h ≠ 0 ∨ bits 23 8 h ≠ 0)) ∨
      (opField h ∈ [0x6, 0xC, 0xF] ∧ ∃ w ∈ ws.take (argField h), bits 31 8 w ≠ 0)) →
    ∃ e, step s = .refused (.reserved e)) ∧
  (∀ (s : State) (c n : Nat), s.ib.cons.length ≤ c →
    exec (.take c n) s = .refused (.noSuchConsumer c) ∧ exec (.takeend c) s = .refused (.noSuchConsumer c)) ∧
  (∀ (s : State) (t : Nat) (p : Bytes) (wok : Bool), s.tx.ctx.length ≤ t →
    exec (.xmit t p) s = .refused (.noSuchCaller t) ∧ exec (.txstep t wok) s = .refused (.noSuchCaller t)) ∧
  (∀ (s : State) (w : Option Nat),
    (w = none ∧ ∃ c k : Nat, s.ib.cons[c]? = some (Cons.wait k)) ∨
      (∃ c : Nat, w = some c ∧ ∀ k : Nat, s.ib.cons[c]? ≠ some (Cons.wait k)) →
    (∀ p, ∃ r, exec (.pub w p) s = .refused r) ∧
    (s.rx.phase = .publishing → exec (.rxstep w) s = .refused (.waiterChoice w))) ∧
  (∀ (s : State) (c : Nat), s.rx.phase ≠ .publishing → ∃ r, exec (.rxstep (some c)) s = .refused r) ∧
  (∀ (s : State) (t : Nat) (p : Bytes), s.tx.ctx[t]? = some (.enc p) →
    exec (.txstep t true) s = .refused (.verdictBeforeWrite t))

/-! ### Parameters and reset -/

/-- Rules R7 and R8: the codec law, and the ranges of the two context counts, true of the model's opaque parameters
(assumption log 3). -/
def Obligations.ParametersObeyTheirLaws : Prop :=
  (∀ p raw, Config.encode p = .ok raw → Config.decode raw = .ok p) ∧
  1 ≤ Config.ncons ∧ Config.ncons ≤ 15 ∧ Config.ntx ≤ 16

/-- Rule R231: every element of the state of rule R20 at the value of the reset column. -/
def Obligations.ResetPutsEveryElementAtItsValue : Prop :=
  State.reset.sy = { state := .idle, prev := none, buf := [] } ∧
  State.reset.rx = { phase := .off, chunk := [], raw := none, pay := none } ∧
  State.reset.stop = false ∧
  State.reset.ib.slot = none ∧
  State.reset.ib.cons = List.replicate Config.ncons .idle ∧
  State.reset.st = { txTotal := 0, txGood := 0, txBad := 0, rxTotal := 0, rxGood := 0, rxBad := 0 } ∧
  State.reset.tx.ctx = List.replicate Config.ntx .idle ∧
  State.reset.txOverlap = false

/-- The invariants of rules R24, R27, R28, R34 and R36, and the model's own of its line (assumption log 6), hold at
reset; there is one context per consumer and caller. The clause about the line rests on the model's choice of an empty
line and no response at reset (assumption log 2, 6). -/
def Obligations.InvariantsHoldAtReset : Prop :=
  SyncInv Config.flag State.reset.sy ∧ FramesInv Config.flag State.reset ∧ RxInv State.reset.rx ∧
  ContextsInv State.reset ∧ CountersBalanced State.reset ∧ OverlapInv State.reset ∧ LineInv State.reset

/-! ### SYNC -/

/-- Rules R100 to R105: the four cases of `feed`, each under its condition, where the conditions cover every byte in
every state; and what `sy.prev` is after a feed. -/
def Obligations.FeedFollowsItsFourCases : Prop :=
  ∀ (flag : Byte) (sy : Sync) (b : Byte),
    (sy.state = .idle → sy.prev = some flag → b ≠ flag →
      sy.feed flag b = ({ state := .receiving, prev := some b, buf := [flag, b] }, none)) ∧
    (sy.state = .receiving → b ≠ flag →
      sy.feed flag b = ({ state := .receiving, prev := some b, buf := sy.buf ++ [b] }, none)) ∧
    (sy.state = .receiving → b = flag →
      sy.feed flag b = ({ state := .idle, prev := none, buf := [] }, some (sy.buf ++ [flag]))) ∧
    (sy.state = .idle → (b = flag ∨ sy.prev ≠ some flag) →
      sy.feed flag b = ({ state := .idle, prev := some b, buf := sy.buf }, none)) ∧
    (sy.feed flag b).1.prev = (if (sy.feed flag b).2 = none then some b else none)

/-- Rule R106: FEED b touches `sy.*` only and responds FEED_R; it is refused once a loop exists. -/
def Obligations.FeedEventFeedsOneByte : Prop :=
  ∀ (s : State) (b : Byte),
    (s.rx.phase = .off →
      exec (.feed b) s =
        .next { s with sy := (s.sy.feed Config.flag b).1, out := s.out ++ [.feedR (s.sy.feed Config.flag b).2] }) ∧
    (s.rx.phase ≠ .off → exec (.feed b) s = .refused .phaseNotOff)

/-- Rule R24 (a), (b): the synchronizer invariant, kept by every step, and with it rule R71's shape of every raw frame
that waits for `decode` or was responded by FEED. -/
def Obligations.SyncInvariantIsKept : Prop :=
  ∀ s t : State, SyncInv Config.flag s.sy → step s = .next t →
    SyncInv Config.flag t.sy ∧ (FramesInv Config.flag s → FramesInv Config.flag t)

/-- Rule R107: the shape of every frame `feed` returns, for every byte sequence fed from reset. -/
def Obligations.EveryEmittedFrameHasRawFrameShape : Prop :=
  ∀ (flag : Byte) (bs f : Bytes), f ∈ (Sync.reset.feedAll flag bs).2 →
    3 ≤ f.length ∧ f[0]? = some flag ∧ f[f.length - 1]? = some flag ∧
    ∀ i, 0 < i → i < f.length - 1 → f[i]? ≠ some flag

/-- Rule R108: a run of N delimiters fed in IDLE emits no frame. -/
def Obligations.DelimiterRunEmitsNothing : Prop :=
  ∀ (flag : Byte) (prev : Option Byte) (n : Nat), 1 ≤ n →
    Sync.feedAll flag { state := .idle, prev := prev, buf := [] } (List.replicate n flag) =
      ({ state := .idle, prev := some flag, buf := [] }, [])

/-- Rule R109: two frames cannot share one delimiter; with the delimiter doubled both arrive. -/
def Obligations.FramesCannotShareADelimiter : Prop :=
  ∀ (flag : Byte) (a b : Bytes), flag ∉ a → a ≠ [] → flag ∉ b → b ≠ [] →
    Sync.reset.feedAll flag ([flag] ++ a ++ [flag] ++ b ++ [flag]) =
      ({ state := .idle, prev := some flag, buf := [] }, [[flag] ++ a ++ [flag]]) ∧
    Sync.reset.feedAll flag ([flag] ++ a ++ [flag, flag] ++ b ++ [flag]) =
      ({ state := .idle, prev := none, buf := [] }, [[flag] ++ a ++ [flag], [flag] ++ b ++ [flag]])

/-- Rule R72: every stream is groups and a tail, and from reset SYNC emits exactly one frame per group, in order. -/
def Obligations.StreamGrammarGivesTheFrames : Prop :=
  ∀ flag : Byte,
    (∀ (gs : List StreamGroup) (tail : StreamTail), (∀ g ∈ gs, g.proper flag) → tail.proper flag →
      (Sync.reset.feedAll flag ((gs.map (StreamGroup.stream flag)).flatten ++ tail.stream flag)).2 =
        gs.map (StreamGroup.frame flag)) ∧
    (∀ bs : Bytes, ∃ (gs : List StreamGroup) (tail : StreamTail), (∀ g ∈ gs, g.proper flag) ∧ tail.proper flag ∧
      bs = (gs.map (StreamGroup.stream flag)).flatten ++ tail.stream flag)

/-- Rule R52: a chunk boundary has no meaning to SYNC. Take any run that begins with RXDATA a and has no other label of the
transport alone in it. While it is inside the chunk, the same labels behind RXDATA (a ++ b) give the same state but for the
bytes `b` still to feed, so the same SYNC, frames, counters and responses; and when it has fed all of `a`, the poll of `b` as a
second chunk leads to the very state that the one chunk a ++ b leads to. -/
def Obligations.ChunkBoundariesDoNotMatter : Prop :=
  ∀ (s u : State) (a b : Bytes) (is : List Instr), a ≠ [] → b ≠ [] → (∀ i ∈ is, i.agents ≠ [.xport]) →
    runInstrs (.rxdata a :: is) s = some u →
    (u.rx.phase ≠ .poll → u.rx.phase ≠ .exited →
      runInstrs (.rxdata (a ++ b) :: is) s =
        some { u with rx := { u.rx with phase := if u.rx.phase = .top then .feeding else u.rx.phase,
                                        chunk := u.rx.chunk ++ b } }) ∧
    (∀ v, u.rx.phase = .top → runInstrs [.rxstep none, .rxdata b] u = some v →
      runInstrs (.rxdata (a ++ b) :: is) s = some v)

/-- Rule R25 with the agents of rule R12: only RXSTEP and FEED touch `sy.*`, and FEED only in phase OFF. -/
def Obligations.SyncBelongsToTheLoop : Prop :=
  ∀ (i : Instr) (s t : State), exec i s = .next t →
    t.sy = s.sy ∨ i.agents = [.rxseq] ∨ (i.agents = [.test] ∧ s.rx.phase = .off)

/-! ### RXSEQ -/

/-- Rule R121: RXSTEP in TOP is the stop test; its waiter choice must be 0xF. -/
def Obligations.TopStepTestsStop : Prop :=
  ∀ s : State, s.rx.phase = .top →
    (s.stop = true → exec (.rxstep none) s =
      .next { s with rx := { s.rx with phase := .exited }, out := s.out ++ [.xclose] }) ∧
    (s.stop = false → exec (.rxstep none) s = .next { s with rx := { s.rx with phase := .poll } }) ∧
    (∀ c, exec (.rxstep (some c)) s = .refused (.waiterChoice (some c)))

/-- Rule R122: RXDATA in POLL takes a chunk, or goes round again when it is empty; elsewhere it is refused. -/
def Obligations.RxdataTakesTheChunk : Prop :=
  ∀ (s : State) (bs : Bytes),
    (s.rx.phase = .poll → bs = [] → exec (.rxdata bs) s = .next { s with rx := { s.rx with phase := .top } }) ∧
    (s.rx.phase = .poll → bs ≠ [] →
      exec (.rxdata bs) s = .next { s with rx := { s.rx with phase := .feeding, chunk := bs } }) ∧
    (s.rx.phase ≠ .poll → exec (.rxdata bs) s = .refused .phaseNotPoll)

/-- Rules R123 and R203: RXERR sets `stop`, ends the loop and closes the transport. -/
def Obligations.RxerrEndsTheLoop : Prop :=
  ∀ s : State,
    (s.rx.phase = .poll → exec .rxerr s =
      .next { s with stop := true, rx := { s.rx with phase := .exited }, out := s.out ++ [.xclose] }) ∧
    (s.rx.phase ≠ .poll → exec .rxerr s = .refused .phaseNotPoll)

/-- Rule R124: RXSTEP in FEEDING feeds one byte, and counts and holds a frame that it closes; its waiter choice must be
0xF. -/
def Obligations.FeedingStepFeedsOneByte : Prop :=
  ∀ (s : State) (b : Byte) (rest : Bytes), s.rx.phase = .feeding → s.rx.chunk = b :: rest →
    exec (.rxstep none) s =
      .next (match s.sy.feed Config.flag b with
        | (sy, some f) =>
          { s with sy := sy, rx := { s.rx with phase := .decoding, chunk := rest, raw := some f },
                   st := { s.st with rxTotal := s.st.rxTotal + 1 } }
        | (sy, none) =>
          { s with sy := sy, rx := { s.rx with phase := if rest = [] then .top else .feeding, chunk := rest } }) ∧
    (∀ c, exec (.rxstep (some c)) s = .refused (.waiterChoice (some c)))

/-- Rules R125 and R201: RXSTEP in DECODING counts the outcome, and holds a good payload for its publish; its waiter
choice must be 0xF. The call `decode(f)` goes out on CODEC (rule R13). -/
def Obligations.DecodingStepCountsTheOutcome : Prop :=
  ∀ (s : State) (f : Bytes), s.rx.phase = .decoding → s.rx.raw = some f →
    exec (.rxstep none) s =
      .next (match Config.decode f with
        | .ok p =>
          { s with rx := { s.rx with phase := .publishing, raw := none, pay := some p },
                   st := { s.st with rxGood := s.st.rxGood + 1 }, out := s.out ++ [.decodeCall f] }
        | .formatError =>
          { s with rx := { s.rx with phase := if s.rx.chunk = [] then .top else .feeding, raw := none },
                   st := { s.st with rxBad := s.st.rxBad + 1 }, out := s.out ++ [.decodeCall f] }) ∧
    (∀ c, exec (.rxstep (some c)) s = .refused (.waiterChoice (some c)))

/-- Rules R126 and R140: RXSTEP in PUBLISHING overwrites the slot and notifies the chosen waiter, if any waits. -/
def Obligations.PublishingStepPublishes : Prop :=
  ∀ (s : State) (p : Bytes), s.rx.phase = .publishing → s.rx.pay = some p →
    ((∀ c k : Nat, s.ib.cons[c]? ≠ some (Cons.wait k)) → exec (.rxstep none) s =
      .next { s with ib := { s.ib with slot := some p },
                     rx := { s.rx with phase := if s.rx.chunk = [] then .top else .feeding, pay := none } }) ∧
    (∀ c k : Nat, s.ib.cons[c]? = some (Cons.wait k) → exec (.rxstep (some c)) s =
      .next { s with ib := { slot := some p, cons := s.ib.cons.set c .notified },
                     rx := { s.rx with phase := if s.rx.chunk = [] then .top else .feeding, pay := none } })

/-- Rule R127: RXSTEP has no step in OFF, POLL and EXITED. -/
def Obligations.RxstepIsRefusedOutsideItsPhases : Prop :=
  ∀ (s : State) (w : Option Nat), s.rx.phase = .off ∨ s.rx.phase = .poll ∨ s.rx.phase = .exited →
    exec (.rxstep w) s = .refused .loopNotStepping

/-- Rule R120: `rx.phase` moves along the edges of the phase graph and no others. -/
def Obligations.PhaseMovesOnlyAlongTheGraph : Prop :=
  ∀ (i : Instr) (s t : State), exec i s = .next t →
    PhaseEdge i s.rx.phase t.rx.phase ∨
    (t.rx.phase = s.rx.phase ∧ i ≠ .start ∧ i ≠ .rxerr ∧ (∀ bs, i ≠ .rxdata bs) ∧ ∀ w, i ≠ .rxstep w)

/-- Rules R27 and R28: which phase holds which data, kept by every step. -/
def Obligations.PhaseDataInvariantIsKept : Prop :=
  ∀ s t : State, RxInv s.rx → step s = .next t → RxInv t.rx

/-- Rules R27 and R28 rule out the states in which RXSTEP would find no data: no step faults. -/
def Obligations.NoStepFaults : Prop :=
  ∀ (s : State) (f : Fault), RxInv s.rx → step s ≠ .fault f

/-- Rules R132 and R193: once the loop has exited, nothing of the receive side moves. -/
def Obligations.AfterExitTheReceiveSideIsStill : Prop :=
  ∀ (i : Instr) (s t : State), s.rx.phase = .exited → exec i s = .next t →
    t.rx = s.rx ∧ t.sy = s.sy ∧
    (i ≠ .clear → t.st.rxTotal = s.st.rxTotal ∧ t.st.rxGood = s.st.rxGood ∧ t.st.rxBad = s.st.rxBad) ∧
    (t.ib.slot = s.ib.slot ∨ ∃ c, i = .takeend c)

/-- Rule R133 for any frame: a chunk that is one whole frame, fed from a SYNC that holds nothing, is counted once and
stands complete before `decode` after one RXSTEP per byte. -/
def Obligations.WholeFrameInOneChunkReachesDecoding : Prop :=
  ∀ (s : State) (d : Bytes), s.rx.phase = .poll → s.sy.state = .idle →
    d ≠ [] → Config.flag ∉ d →
    runInstrs (.rxdata ([Config.flag] ++ d ++ [Config.flag]) :: List.replicate (d.length + 2) (.rxstep none)) s =
      some { s with sy := { state := .idle, prev := none, buf := [] },
                    rx := { s.rx with phase := .decoding, chunk := [],
                                      raw := some ([Config.flag] ++ d ++ [Config.flag]) },
                    st := { s.st with rxTotal := s.st.rxTotal + 1 } }

/-! ### INBOX -/

/-- Rules R140 and R141: PUB publishes while no loop exists, and is refused once one does. -/
def Obligations.PubPublishesWhileNoLoopExists : Prop :=
  ∀ (s : State) (p : Bytes),
    (s.rx.phase = .off → (∀ c k : Nat, s.ib.cons[c]? ≠ some (Cons.wait k)) →
      exec (.pub none p) s = .next { s with ib := { s.ib with slot := some p } }) ∧
    (s.rx.phase = .off → ∀ c k : Nat, s.ib.cons[c]? = some (Cons.wait k) →
      exec (.pub (some c) p) s = .next { s with ib := { slot := some p, cons := s.ib.cons.set c .notified } }) ∧
    (s.rx.phase ≠ .off → ∀ w, exec (.pub w p) s = .refused .phaseNotOff)

/-- Rule R82: with a waiter the choice must name one, and may name any; with none it must be 0xF; the consumer
it names is the one notified; and an RXSTEP in any other phase takes no choice. -/
def Obligations.WaiterChoiceNamesAWaiter : Prop :=
  ∀ (s : State) (w : Option Nat),
    (∀ p, s.rx.phase = .off →
      ((∃ t, exec (.pub w p) s = .next t) ↔
        (w = none ∧ ∀ c k : Nat, s.ib.cons[c]? ≠ some (Cons.wait k)) ∨
        (∃ c k : Nat, w = some c ∧ s.ib.cons[c]? = some (Cons.wait k)))) ∧
    (∀ p, s.rx.phase = .publishing → s.rx.pay = some p →
      ((∃ t, exec (.rxstep w) s = .next t) ↔
        (w = none ∧ ∀ c k : Nat, s.ib.cons[c]? ≠ some (Cons.wait k)) ∨
        (∃ c k : Nat, w = some c ∧ s.ib.cons[c]? = some (Cons.wait k)))) ∧
    (∀ c t, (∃ p, exec (.pub (some c) p) s = .next t) ∨
        (s.rx.phase = .publishing ∧ exec (.rxstep (some c)) s = .next t) →
      t.ib.cons[c]? = some Cons.notified ∧ ∀ d, d ≠ c → t.ib.cons[d]? = s.ib.cons[d]?) ∧
    (s.rx.phase ≠ .publishing → w ≠ none → ∀ t, exec (.rxstep w) s ≠ .next t)

/-- Rule R142: TAKE begins the wait of an idle consumer without looking at the slot; a busy consumer's is refused. -/
def Obligations.TakeBeginsTheWait : Prop :=
  ∀ (s : State) (c n : Nat),
    (s.ib.cons[c]? = some Cons.idle →
      exec (.take c n) s = .next { s with ib := { s.ib with cons := s.ib.cons.set c (.wait n) } }) ∧
    (∀ k, s.ib.cons[c]? = some (Cons.wait k) → exec (.take c n) s = .refused (.consumerBusy c)) ∧
    (s.ib.cons[c]? = some Cons.notified → exec (.take c n) s = .refused (.consumerBusy c))

/-- Rule R143: TICK counts every waiting consumer down, and saturates at 0. -/
def Obligations.TickCountsEveryWaiterDown : Prop :=
  ∀ s : State, ∃ cons : List Cons, exec .tick s = .next { s with ib := { s.ib with cons := cons } } ∧
    cons.length = s.ib.cons.length ∧
    (∀ c k : Nat, s.ib.cons[c]? = some (Cons.wait (k + 1)) → cons[c]? = some (Cons.wait k)) ∧
    (∀ c : Nat, s.ib.cons[c]? = some (Cons.wait 0) → cons[c]? = some (Cons.wait 0)) ∧
    (∀ c : Nat, s.ib.cons[c]? = some Cons.idle → cons[c]? = some Cons.idle) ∧
    (∀ c : Nat, s.ib.cons[c]? = some Cons.notified → cons[c]? = some Cons.notified)

/-- Rule R144: TAKEEND of a notified or timed-out consumer reads and clears the slot; of any other it is refused. -/
def Obligations.TakeendReadsAndClearsTheSlot : Prop :=
  ∀ (s : State) (c : Nat),
    (s.ib.cons[c]? = some Cons.notified ∨ s.ib.cons[c]? = some (Cons.wait 0) →
      (∀ p, s.ib.slot = some p → exec (.takeend c) s =
        .next { s with ib := { slot := none, cons := s.ib.cons.set c .idle },
                       out := s.out ++ [.takeR c p p.length] }) ∧
      (s.ib.slot = none → exec (.takeend c) s =
        .next { s with ib := { s.ib with cons := s.ib.cons.set c .idle }, out := s.out ++ [.takeR c [] (-1)] })) ∧
    (∀ k, s.ib.cons[c]? = some (Cons.wait (k + 1)) → exec (.takeend c) s = .refused (.consumerWaiting c)) ∧
    (s.ib.cons[c]? = some Cons.idle → exec (.takeend c) s = .refused (.consumerIdle c))

/-- Rule R148: a publish of A, then a publish of B, with no TAKEEND between: the next TAKEEND returns B and empties the
slot. -/
def Obligations.TakeReturnsTheLatestPublish : Prop :=
  ∀ (s₁ s₂ s₃ s₄ s₅ s₆ : State) (i j : Instr) (a b : Bytes) (c : Nat),
    publishes i s₁ = some a → exec i s₁ = .next s₂ → QuietRun s₂ s₃ →
    publishes j s₃ = some b → exec j s₃ = .next s₄ → QuietRun s₄ s₅ →
    exec (.takeend c) s₅ = .next s₆ →
    s₆.out = s₅.out ++ [.takeR c b b.length] ∧ s₆.ib.slot = none

/-- Rule R152: nothing takes a consumer out of its wait but a tick and a notify. -/
def Obligations.WaitEndsOnlyByTickOrNotify : Prop :=
  ∀ (i : Instr) (s t : State) (c k : Nat), s.ib.cons[c]? = some (Cons.wait (k + 1)) → exec i s = .next t →
    t.ib.cons[c]? = some (Cons.wait (k + 1)) ∨
    (i = .tick ∧ t.ib.cons[c]? = some (Cons.wait k)) ∨
    (t.ib.cons[c]? = some Cons.notified ∧ (i = .rxstep (some c) ∨ ∃ p, i = .pub (some c) p))

/-- Rule R31: a publish fills the slot with its frame, TAKEEND empties it, and nothing else writes it. -/
def Obligations.SlotIsWrittenByPublishAndTakeend : Prop :=
  ∀ (i : Instr) (s t : State), exec i s = .next t →
    (∀ w p, i = .pub w p → t.ib.slot = some p) ∧
    (∀ w p, i = .rxstep w → s.rx.phase = .publishing → s.rx.pay = some p → t.ib.slot = some p) ∧
    (∀ c, i = .takeend c → t.ib.slot = none) ∧
    (t.ib.slot = s.ib.slot ∨
      (∃ w p, i = .pub w p ∧ t.ib.slot = some p) ∨
      (∃ w p, i = .rxstep w ∧ s.rx.phase = .publishing ∧ s.rx.pay = some p ∧ t.ib.slot = some p) ∨
      (∃ c, i = .takeend c ∧ t.ib.slot = none))

/-! ### STATS -/

/-- Rules R161 and R77: SNAP responds the six counters of this state and changes no state. -/
def Obligations.SnapRespondsTheSixCounters : Prop :=
  ∀ s : State, exec .snap s =
    .next { s with out := s.out ++ [.snapR { txTotal := s.st.txTotal, txGood := s.st.txGood, txBad := s.st.txBad,
                                             rxTotal := s.st.rxTotal, rxGood := s.st.rxGood,
                                             rxBad := s.st.rxBad }] }

/-- Rule R162: CLEAR puts all six counters at 0 and touches nothing else. -/
def Obligations.ClearZeroesTheSixCounters : Prop :=
  ∀ s : State, exec .clear s =
    .next { s with st := { txTotal := 0, txGood := 0, txBad := 0, rxTotal := 0, rxGood := 0, rxBad := 0 } }

/-- Rule R33: which label increments which counter. -/
def Obligations.EachCounterHasItsOwnSteps : Prop :=
  ∀ (i : Instr) (s t : State), exec i s = .next t →
    t.st = s.st ∨
    (i = .clear ∧ t.st = { txTotal := 0, txGood := 0, txBad := 0, rxTotal := 0, rxGood := 0, rxBad := 0 }) ∨
    (i = .rxstep none ∧ s.rx.phase = .feeding ∧ t.rx.phase = .decoding ∧
      t.st = { s.st with rxTotal := s.st.rxTotal + 1 }) ∨
    (i = .rxstep none ∧ s.rx.phase = .decoding ∧ t.rx.phase = .publishing ∧
      t.st = { s.st with rxGood := s.st.rxGood + 1 }) ∨
    (i = .rxstep none ∧ s.rx.phase = .decoding ∧ t.rx.phase ≠ .publishing ∧
      t.st = { s.st with rxBad := s.st.rxBad + 1 }) ∨
    (∃ c p, i = .xmit c p ∧ t.st = { s.st with txTotal := s.st.txTotal + 1 }) ∨
    (∃ c raw, i = .txstep c true ∧ s.tx.ctx[c]? = some (.wr raw) ∧
      t.st = { s.st with txGood := s.st.txGood + 1 }) ∨
    (∃ c raw, i = .txstep c false ∧ s.tx.ctx[c]? = some (.wr raw) ∧
      t.st = { s.st with txBad := s.st.txBad + 1 }) ∨
    (∃ c p, i = .txstep c false ∧ s.tx.ctx[c]? = some (.enc p) ∧ Config.encode p = .formatError ∧
      t.st = { s.st with txBad := s.st.txBad + 1 })

/-- Rule R165: between two CLEAR steps no counter decreases. -/
def Obligations.CountersNeverDecreaseBetweenClears : Prop :=
  ∀ (is : List Instr) (s t : State), .clear ∉ is → runInstrs is s = some t →
    s.st.txTotal ≤ t.st.txTotal ∧ s.st.txGood ≤ t.st.txGood ∧ s.st.txBad ≤ t.st.txBad ∧
    s.st.rxTotal ≤ t.st.rxTotal ∧ s.st.rxGood ≤ t.st.rxGood ∧ s.st.rxBad ≤ t.st.rxBad

/-- Rule R34: the counter invariant, kept by every step but a CLEAR with something in flight. -/
def Obligations.CounterInvariantIsKept : Prop :=
  ∀ (s t : State) (i : Instr) (rest : List Word), CountersBalanced s → decode s.trace = .ok (i, rest) →
    (i = .clear → framesInFlight s = 0 ∧ transmitsInFlight s = 0) → step s = .next t → CountersBalanced t

/-- Rules R164 and R166: no rule reads a counter but SNAP. A label other than SNAP does the same to everything but the
counters whatever the counters are. -/
def Obligations.CountersFeedNothingBack : Prop :=
  ∀ (i : Instr) (s t : State) (st : Stats), i ≠ .snap → exec i s = .next t →
    ∃ st', exec i { s with st := st } = .next { t with st := st' }

/-! ### TXPATH -/

/-- Rule R175: XMIT counts the call and latches the payload of an idle caller; a busy caller's is refused, and so is an
idle caller's TXSTEP (rules R176, R177). -/
def Obligations.XmitCountsAndLatches : Prop :=
  ∀ (s : State) (t : Nat) (p : Bytes),
    (s.tx.ctx[t]? = some .idle → exec (.xmit t p) s =
      .next { s with tx := { ctx := s.tx.ctx.set t (.enc p) }, st := { s.st with txTotal := s.st.txTotal + 1 } }) ∧
    (∀ q, s.tx.ctx[t]? = some (.enc q) → exec (.xmit t p) s = .refused (.callerBusy t)) ∧
    (∀ raw, s.tx.ctx[t]? = some (.wr raw) → exec (.xmit t p) s = .refused (.callerBusy t)) ∧
    (∀ wok, s.tx.ctx[t]? = some .idle → exec (.txstep t wok) s = .refused (.callerIdle t))

/-- Rules R83, R176 and R202: TXSTEP in T_ENC encodes; a failure is counted and reported and writes nothing; a success
enters T_WR and marks an overlap. The call `encode(p)` goes out on CODEC (rule R13).
The model's own field `line` holds nothing from an overlap on (assumption log 6). -/
def Obligations.EncodingStepEncodes : Prop :=
  ∀ (s : State) (t : Nat) (p : Bytes), s.tx.ctx[t]? = some (.enc p) →
    exec (.txstep t true) s = .refused (.verdictBeforeWrite t) ∧
    (match Config.encode p with
      | .formatError => exec (.txstep t false) s =
          .next { s with tx := { ctx := s.tx.ctx.set t .idle }, st := { s.st with txBad := s.st.txBad + 1 },
                         out := s.out ++ [.encodeCall p, .xmitR t .encodeError] }
      | .ok raw =>
        ((∀ u r, u ≠ t → s.tx.ctx[u]? ≠ some (.wr r)) → exec (.txstep t false) s =
          .next { s with tx := { ctx := s.tx.ctx.set t (.wr raw) }, out := s.out ++ [.encodeCall p] }) ∧
        (∀ u r, u ≠ t → s.tx.ctx[u]? = some (.wr r) → exec (.txstep t false) s =
          .next { s with tx := { ctx := s.tx.ctx.set t (.wr raw) }, txOverlap := true,
                         out := s.out ++ [.encodeCall p], line := none }))

/-- Rules R177, R178 and R204: TXSTEP in T_WR counts and reports the outcome; while no overlap is marked, a success puts
exactly the raw bytes on the stream and a failure some prefix of them. The field `line`, and that TXBYTES itself is
unconstrained after an overlap, are the model's (assumption log 6, 7). -/
def Obligations.WritingStepWritesAndCounts : Prop :=
  ∀ (s : State) (t : Nat) (raw : Bytes), s.tx.ctx[t]? = some (.wr raw) →
    (∃ sent line drawn, exec (.txstep t true) s =
      .next { s with tx := { ctx := s.tx.ctx.set t .idle }, st := { s.st with txGood := s.st.txGood + 1 },
                     out := s.out ++ [.txbytes t sent, .xmitR t .ok], line := line, drawn := drawn } ∧
      (s.txOverlap = false → sent = raw ∧ line = s.line.map (· ++ raw))) ∧
    (∃ line drawn, exec (.txstep t false) s =
      .next { s with tx := { ctx := s.tx.ctx.set t .idle }, st := { s.st with txBad := s.st.txBad + 1 },
                     out := s.out ++ [.xmitR t .writeError], line := line, drawn := drawn } ∧
      (s.txOverlap = false → ∃ n, line = s.line.map (· ++ raw.take n)))

/-- Rules R36 and R178: `mark.tx_overlap` is sticky, only TXSTEP sets it, and while it is not set at most one caller is
in T_WR. -/
def Obligations.OverlapMarkIsStickyAndKeepsItsInvariant : Prop :=
  ∀ (i : Instr) (s t : State), exec i s = .next t →
    (s.txOverlap = true → t.txOverlap = true) ∧
    (t.txOverlap = s.txOverlap ∨ ∃ c, i = .txstep c false) ∧
    (OverlapInv s → OverlapInv t)

/-- Rules R51, R177: while no transmits have overlapped and no write has failed, the line carries the TXBYTES records
in order; after an overlap the model holds none. The field `line` is the model's own (assumption log 6). -/
def Obligations.LineCarriesTheTxbytesInOrder : Prop :=
  ∀ s t : State, LineInv s → step s = .next t → LineInv t

/-- Rule R179: over any run, a caller's XMIT labels and its XMIT_R responses match one to one, but for the call that
is still in flight. -/
def Obligations.EveryTransmitHasOneOutcome : Prop :=
  ∀ (is : List Instr) (s t : State) (c : Nat), runInstrs is s = some t →
    xmitResponses c s.out + callerInFlight c s + xmitLabels c is =
      xmitResponses c t.out + callerInFlight c t

/-- Rule R181: TXPATH neither writes nor reads the receive side, and the receive side neither writes nor reads TXPATH: a
label of the one does the same whatever stands in the elements of the other. The field `line` is the model's own, and
nothing is said of it once `mark.tx_overlap` is set (rule R178, assumption log 6). -/
def Obligations.TransmitAndReceiveAreIndependent : Prop :=
  ∀ (i : Instr) (s t : State), exec i s = .next t →
    ((∃ c p, i = .xmit c p) ∨ (∃ c wok, i = .txstep c wok) →
      t.sy = s.sy ∧ t.rx = s.rx ∧ t.ib = s.ib ∧ t.stop = s.stop) ∧
    ((∀ c p, i ≠ .xmit c p) ∧ (∀ c wok, i ≠ .txstep c wok) →
      t.tx = s.tx ∧ t.txOverlap = s.txOverlap ∧ (s.txOverlap = false → t.line = s.line)) ∧
    ((∃ c p, i = .xmit c p) ∨ (∃ c wok, i = .txstep c wok) → ∀ sy rx ib stop,
      exec i { s with sy := sy, rx := rx, ib := ib, stop := stop } =
        .next { t with sy := sy, rx := rx, ib := ib, stop := stop }) ∧
    ((∀ c p, i ≠ .xmit c p) ∧ (∀ c wok, i ≠ .txstep c wok) →
      ∀ tx txOverlap line, (txOverlap = true → line = none) →
      exec i { s with tx := tx, txOverlap := txOverlap, line := line } =
        .next { t with tx := tx, txOverlap := txOverlap, line := line })

/-! ### CTRL -/

/-- Rule R190: START begins the loop in phase OFF and is refused in every other phase. -/
def Obligations.StartBeginsTheLoopOnce : Prop :=
  ∀ s : State,
    (s.rx.phase = .off → exec .start s = .next { s with rx := { s.rx with phase := .top } }) ∧
    (s.rx.phase ≠ .off → exec .start s = .refused .phaseNotOff)

/-- Rule R191: STOP sets the flag and does nothing else, in every state. -/
def Obligations.StopSetsTheFlag : Prop :=
  ∀ s : State, exec .stop s = .next { s with stop := true }

/-- Rules R30 and R192: ALIVE responds whether the loop is running. -/
def Obligations.AliveRespondsWhetherTheLoopRuns : Prop :=
  ∀ s : State, ∃ a : Bool, exec .alive s = .next { s with out := s.out ++ [.aliveR a] } ∧
    (a = true ↔ s.rx.phase ∈ [Phase.top, .poll, .feeding, .decoding, .publishing])

/-- Rules R29 and R194: `stop` is never cleared, and STOP and RXERR are its only writers. -/
def Obligations.StopHasTwoSettersAndNoClearer : Prop :=
  ∀ (i : Instr) (s t : State), exec i s = .next t →
    (i = .stop ∨ i = .rxerr → t.stop = true) ∧ (i ≠ .stop → i ≠ .rxerr → t.stop = s.stop)

/-! ### Frames and the whole machine -/

/-- The frame of START, STOP, CLEAR, SNAP and ALIVE (rules R161, R162, R190 to R192). -/
def Obligations.HostLabelsFrame : Prop :=
  ∀ (i : Instr) (s t : State), i.agents = [.host] → exec i s = .next t →
    t.sy = s.sy ∧ t.rx.chunk = s.rx.chunk ∧ t.rx.raw = s.rx.raw ∧ t.rx.pay = s.rx.pay ∧ t.ib = s.ib ∧
    t.tx = s.tx ∧ t.txOverlap = s.txOverlap ∧ (s.txOverlap = false → t.line = s.line) ∧
    (i ≠ .start → t.rx.phase = s.rx.phase) ∧ (i ≠ .stop → t.stop = s.stop) ∧ (i ≠ .clear → t.st = s.st) ∧
    (i ≠ .snap → i ≠ .alive → t.out = s.out)

/-- The frame of TAKE, TAKEEND and TICK (rules R142 to R144): a take touches its own consumer only. -/
def Obligations.MailboxLabelsFrame : Prop :=
  ∀ (i : Instr) (s t : State) (c n : Nat), i = .take c n ∨ i = .takeend c ∨ i = .tick → exec i s = .next t →
    t.sy = s.sy ∧ t.rx = s.rx ∧ t.stop = s.stop ∧ t.st = s.st ∧ t.tx = s.tx ∧ t.txOverlap = s.txOverlap ∧
    (s.txOverlap = false → t.line = s.line) ∧ (i ≠ .tick → ∀ d, d ≠ c → t.ib.cons[d]? = s.ib.cons[d]?) ∧
    (i ≠ .takeend c → t.ib.slot = s.ib.slot ∧ t.out = s.out)

/-- The frame of RXDATA, RXERR and RXSTEP (rules R121 to R126): the transmit side is untouched, a consumer changes only
when it is notified, and `sy.*` only in FEEDING. -/
def Obligations.ReceiveLabelsFrame : Prop :=
  ∀ (i : Instr) (s t : State), i.agents = [.xport] ∨ i.agents = [.rxseq] → exec i s = .next t →
    t.tx = s.tx ∧ t.txOverlap = s.txOverlap ∧ (s.txOverlap = false → t.line = s.line) ∧
    t.st.txTotal = s.st.txTotal ∧
    t.st.txGood = s.st.txGood ∧ t.st.txBad = s.st.txBad ∧
    (s.rx.phase ≠ .feeding → t.sy = s.sy) ∧ (s.rx.phase ≠ .publishing → t.ib = s.ib) ∧
    (∀ c, i ≠ .rxstep (some c) → t.ib.cons[c]? = s.ib.cons[c]?) ∧
    (t.out = s.out ∨ t.out = s.out ++ [.xclose] ∨
      ∃ f, s.rx.phase = .decoding ∧ s.rx.raw = some f ∧ t.out = s.out ++ [.decodeCall f])

/-- The frame of XMIT and TXSTEP (rules R175 to R177): another caller's context and the receive counters stay. -/
def Obligations.TransmitLabelsFrame : Prop :=
  ∀ (i : Instr) (s t : State) (c : Nat) (p : Bytes) (wok : Bool), i = .xmit c p ∨ i = .txstep c wok →
    exec i s = .next t →
    t.st.rxTotal = s.st.rxTotal ∧ t.st.rxGood = s.st.rxGood ∧ t.st.rxBad = s.st.rxBad ∧
    (∀ d, d ≠ c → t.tx.ctx[d]? = s.tx.ctx[d]?) ∧
    (i = .xmit c p → t.out = s.out ∧ (s.txOverlap = false → t.line = s.line))

/-- The contexts neither come nor go, no label reads the trace, and responses are only ever added, each on an interface
that rule R13 gives the label. The fields `out` and `trace` are the model's own (assumption log 1, 2). -/
def Obligations.ResponsesOnlyGrowOnTheirInterfaces : Prop :=
  ∀ (i : Instr) (s t : State), exec i s = .next t →
    t.ib.cons.length = s.ib.cons.length ∧ t.tx.ctx.length = s.tx.ctx.length ∧ t.trace = s.trace ∧
    ∃ rs, t.out = s.out ++ rs ∧ ∀ r ∈ rs,
      r.interface = Instr.interface i ∨ (r = .xclose ∧ i = .rxstep none) ∨
      (∃ c raw, r = .txbytes c raw ∧ i = .txstep c true) ∨
      (∃ f, r = .decodeCall f ∧ i = .rxstep none ∧ s.rx.raw = some f) ∨
      (∃ c p, r = .encodeCall p ∧ i = .txstep c false ∧ s.tx.ctx[c]? = some (.enc p))
end

