-- ==== Sys2Proof/Laws/Config.lean ====
section
/-! SUPPORT. The codec parameters: the law that `lawful` enforces, and that it takes nothing away from a pair of functions
that obeys the law already. -/

namespace Sys2Proof.Laws

/-- Whatever two functions are given, the cut-down `encode` and the `decode` obey the law of rule R7. -/
theorem lawful_obeys_law (encode decode : Bytes → CodecResult) : CodecLaw (lawful encode decode) decode := by
  intro p raw h
  unfold lawful at h
  split at h
  · split at h
    · next hd => cases h; exact hd
    · cases h
  · cases h

/-- On a pair that obeys the law, `lawful` is `encode` itself: no lawful codec is left out. -/
theorem lawful_eq_self {encode decode : Bytes → CodecResult} (h : CodecLaw encode decode) :
    lawful encode decode = encode := by
  funext p
  unfold lawful
  split
  · next raw hraw => simp [h p raw hraw, hraw]
  · next hp => exact hp.symm

end Sys2Proof.Laws
end

