-- ==== Sys2Proof/Laws/Decode.lean ====
section
/-! SUPPORT. The fields of a header and the payload words behind it: what the encoder writes the decoder's helpers read,
and a word is the header of its own fields. -/

namespace Sys2Proof

theorem opField_lt (h : Word) : opField h < 16 := by
  unfold opField bits
  omega

theorem idField_lt (h : Word) : idField h < 16 := by
  unfold idField bits
  omega

theorem argField_lt (h : Word) : argField h < 2 ^ 24 := by
  unfold argField bits
  omega

section Header

variable {op id arg : Nat} (hop : op < 16) (hid : id < 16) (harg : arg < 2 ^ 24)

include hop hid harg in
theorem header_toNat : (header op id arg).toNat = op * 2 ^ 28 + id * 2 ^ 24 + arg := by
  simp only [header, BitVec.toNat_ofNat]
  omega

include hop hid harg in
theorem opField_header : opField (header op id arg) = op := by
  simp only [opField, bits, header_toNat hop hid harg]
  omega

include hop hid harg in
theorem idField_header : idField (header op id arg) = id := by
  simp only [idField, bits, header_toNat hop hid harg]
  omega

include hop hid harg in
theorem argField_header : argField (header op id arg) = arg := by
  simp only [argField, bits, header_toNat hop hid harg]
  omega

end Header

/-- A word is the header of its own three fields. -/
theorem header_of_fields (h : Word) : header (opField h) (idField h) (argField h) = h := by
  apply BitVec.eq_of_toNat_eq
  have hlt := h.isLt
  rw [header_toNat (opField_lt h) (idField_lt h) (argField_lt h)]
  simp only [opField, idField, argField, bits]
  omega

/-- TXSTEP's `arg` is its verdict bit when the bits above it are 0. -/
theorem verdict_of_arg {h : Word} (hz : bits 23 1 h = 0) : (bits 0 0 h == 1).toNat = argField h := by
  have harg : argField h = bits 0 0 h := by
    simp only [bits, argField] at hz ⊢
    omega
  have hlt : bits 0 0 h < 2 := Nat.mod_lt _ (by decide)
  rw [harg]
  rcases (by omega : bits 0 0 h = 0 ∨ bits 0 0 h = 1) with hb | hb <;> rw [hb] <;> rfl

/-- FEED's `arg` is its byte when the bits above it are 0. -/
theorem byte_of_arg {h : Word} (hz : bits 23 8 h = 0) : (BitVec.ofNat 8 (bits 7 0 h)).toNat = argField h := by
  simp only [bits, argField, BitVec.toNat_ofNat] at hz ⊢
  omega

/-- `payloadCount` as rule R84 says it. -/
theorem payloadCount_eq (h : Word) :
    payloadCount h = if opField h = 0x6 ∨ opField h = 0xC ∨ opField h = 0xF then argField h else 0 := by
  unfold payloadCount
  split <;> simp_all

theorem requireZero_ok {zero : Bool} {i j : Instr} (h : requireZero zero i = .ok j) : zero = true ∧ i = j := by
  unfold requireZero at h
  split at h
  · next hz => cases h; exact ⟨hz, rfl⟩
  · cases h

theorem idOfWaiter_waiterOfId (id : Nat) : idOfWaiter (waiterOfId id) = id := by
  unfold waiterOfId
  split
  · next h => exact h.symm
  · rfl

theorem waiterOfId_idOfWaiter {w : Option Nat} (h : fitsWaiter w = true) : waiterOfId (idOfWaiter w) = w := by
  cases w with
  | none => rfl
  | some c =>
    have hc : c < 15 := by simpa [fitsWaiter] using h
    exact if_neg (show ¬ c = 15 by omega)

theorem idOfWaiter_lt {w : Option Nat} (h : fitsWaiter w = true) : idOfWaiter w < 16 := by
  cases w with
  | none => decide
  | some c =>
    have hc : c < 15 := by simpa [fitsWaiter] using h
    simp only [idOfWaiter]
    omega

theorem fitsWaiter_waiterOfId {id : Nat} (h : id < 16) : fitsWaiter (waiterOfId id) = true := by
  unfold waiterOfId
  split
  · rfl
  · simp only [fitsWaiter, decide_eq_true_eq]
    omega

theorem payloadWord_high (b : Byte) : bits 31 8 (payloadWord b) = 0 := by
  have := b.isLt
  simp only [bits, payloadWord, BitVec.toNat_ofNat]
  omega

theorem payloadWord_low (b : Byte) : BitVec.ofNat 8 (bits 7 0 (payloadWord b)) = b := by
  apply BitVec.eq_of_toNat_eq
  have := b.isLt
  simp only [bits, payloadWord, BitVec.toNat_ofNat]
  omega

theorem payloadWord_of_high {w : Word} (h : bits 31 8 w = 0) : payloadWord (BitVec.ofNat 8 (bits 7 0 w)) = w := by
  apply BitVec.eq_of_toNat_eq
  have := w.isLt
  simp only [bits] at h
  simp only [bits, payloadWord, BitVec.toNat_ofNat]
  omega

/-- The decoder's payload reader reads back the encoder's payload words. -/
theorem takePayload_map (bs : Bytes) (rest : List Word) :
    takePayload (bs.map payloadWord ++ rest) bs.length = .ok (bs, rest) := by
  induction bs with
  | nil => cases rest <;> rfl
  | cons b bs ih =>
    simp only [List.map_cons, List.cons_append, List.length_cons, takePayload, payloadWord_high, if_true, ih,
      payloadWord_low]

/-- The payload reader accepts no other words. -/
theorem takePayload_ok {ws : List Word} {n : Nat} {bs : Bytes} {rest : List Word}
    (h : takePayload ws n = .ok (bs, rest)) : bs.length = n ∧ bs.map payloadWord ++ rest = ws := by
  induction ws generalizing n bs with
  | nil =>
    cases n with
    | zero => cases h; exact ⟨rfl, rfl⟩
    | succ n => cases h
  | cons w ws ih =>
    cases n with
    | zero => cases h; exact ⟨rfl, rfl⟩
    | succ n =>
      simp only [takePayload] at h
      split at h
      · next hw =>
        split at h
        · next bs' rest' hr =>
          cases h
          obtain ⟨hl, hm⟩ := ih hr
          exact ⟨by simp [hl], by simp [payloadWord_of_high hw, hm]⟩
        · cases h
      · cases h

/-- A payload word with high bits is never read past. -/
theorem takePayload_error {ws : List Word} {n : Nat} (h : ∃ w ∈ ws.take n, bits 31 8 w ≠ 0) :
    ∃ e, takePayload ws n = .error e := by
  induction ws generalizing n with
  | nil => simp at h
  | cons w ws ih =>
    cases n with
    | zero => simp at h
    | succ n =>
      simp only [takePayload]
      split
      · next hw =>
        obtain ⟨v, hv, hb⟩ := h
        rcases List.mem_cons.1 (by simpa using hv) with rfl | hv
        · exact absurd hw hb
        · obtain ⟨e, he⟩ := ih ⟨v, hv, hb⟩
          exact ⟨e, by rw [he]⟩
      · exact ⟨_, rfl⟩

/-- `decode` from its two parts. -/
theorem decode_cons {h : Word} {ws rest : List Word} {p : Bytes} {i : Instr}
    (hp : takePayload ws (payloadCount h) = .ok (p, rest)) (hi : decodeHeader h p = .ok i) :
    decode (h :: ws) = .ok (i, rest) := by
  simp only [decode, hp, hi]

/-- Whatever `decode` accepts it accepts from its two parts. -/
theorem decode_ok {ws rest : List Word} {i : Instr} (h : decode ws = .ok (i, rest)) :
    ∃ hd tl p, ws = hd :: tl ∧ takePayload tl (payloadCount hd) = .ok (p, rest) ∧ decodeHeader hd p = .ok i := by
  cases ws with
  | nil => cases h
  | cons hd tl =>
    simp only [decode] at h
    split at h
    · cases h
    · next p r hp =>
      split at h
      · next j hj => cases h; exact ⟨hd, tl, p, rfl, hp, hj⟩
      · cases h

/-- A well-formed instruction is one that EW32 can write, whatever the numbers of contexts. -/
theorem fits_of_wfFor {ncons ntx : Nat} {i : Instr} (h : i.wfFor ncons ntx = true) : i.fits = true := by
  simp only [Instr.wfFor, Bool.and_eq_true] at h
  exact h.1

end Sys2Proof
end

