-- ==== Sys2Proof/Laws/State.lean ====
section
/-! SUPPORT. One lemma per field per update: what each named operation of `Machine/Ops.lean` and `Machine/Flags.lean`
makes of each field of State. -/

namespace Sys2Proof.Machine

variable (s : State)

/-! `respond` -/

@[simp] theorem respond_sy (r : Response) : (s.respond r).sy = s.sy := rfl
@[simp] theorem respond_rx (r : Response) : (s.respond r).rx = s.rx := rfl
@[simp] theorem respond_stop (r : Response) : (s.respond r).stop = s.stop := rfl
@[simp] theorem respond_ib (r : Response) : (s.respond r).ib = s.ib := rfl
@[simp] theorem respond_st (r : Response) : (s.respond r).st = s.st := rfl
@[simp] theorem respond_tx (r : Response) : (s.respond r).tx = s.tx := rfl
@[simp] theorem respond_txOverlap (r : Response) : (s.respond r).txOverlap = s.txOverlap := rfl
@[simp] theorem respond_trace (r : Response) : (s.respond r).trace = s.trace := rfl
@[simp] theorem respond_out (r : Response) : (s.respond r).out = s.out ++ [r] := rfl
@[simp] theorem respond_line (r : Response) : (s.respond r).line = s.line := rfl
@[simp] theorem respond_drawn (r : Response) : (s.respond r).drawn = s.drawn := rfl

/-! `setPhase` -/

@[simp] theorem setPhase_sy (p : Phase) : (s.setPhase p).sy = s.sy := rfl
@[simp] theorem setPhase_rx (p : Phase) : (s.setPhase p).rx = { s.rx with phase := p } := rfl
@[simp] theorem setPhase_stop (p : Phase) : (s.setPhase p).stop = s.stop := rfl
@[simp] theorem setPhase_ib (p : Phase) : (s.setPhase p).ib = s.ib := rfl
@[simp] theorem setPhase_st (p : Phase) : (s.setPhase p).st = s.st := rfl
@[simp] theorem setPhase_tx (p : Phase) : (s.setPhase p).tx = s.tx := rfl
@[simp] theorem setPhase_txOverlap (p : Phase) : (s.setPhase p).txOverlap = s.txOverlap := rfl
@[simp] theorem setPhase_trace (p : Phase) : (s.setPhase p).trace = s.trace := rfl
@[simp] theorem setPhase_out (p : Phase) : (s.setPhase p).out = s.out := rfl
@[simp] theorem setPhase_line (p : Phase) : (s.setPhase p).line = s.line := rfl
@[simp] theorem setPhase_drawn (p : Phase) : (s.setPhase p).drawn = s.drawn := rfl

/-! `setChunk` -/

@[simp] theorem setChunk_sy (bs : Bytes) : (s.setChunk bs).sy = s.sy := rfl
@[simp] theorem setChunk_rx (bs : Bytes) : (s.setChunk bs).rx = { s.rx with chunk := bs } := rfl
@[simp] theorem setChunk_stop (bs : Bytes) : (s.setChunk bs).stop = s.stop := rfl
@[simp] theorem setChunk_ib (bs : Bytes) : (s.setChunk bs).ib = s.ib := rfl
@[simp] theorem setChunk_st (bs : Bytes) : (s.setChunk bs).st = s.st := rfl
@[simp] theorem setChunk_tx (bs : Bytes) : (s.setChunk bs).tx = s.tx := rfl
@[simp] theorem setChunk_txOverlap (bs : Bytes) : (s.setChunk bs).txOverlap = s.txOverlap := rfl
@[simp] theorem setChunk_trace (bs : Bytes) : (s.setChunk bs).trace = s.trace := rfl
@[simp] theorem setChunk_out (bs : Bytes) : (s.setChunk bs).out = s.out := rfl
@[simp] theorem setChunk_line (bs : Bytes) : (s.setChunk bs).line = s.line := rfl
@[simp] theorem setChunk_drawn (bs : Bytes) : (s.setChunk bs).drawn = s.drawn := rfl

/-! `setRaw` -/

@[simp] theorem setRaw_sy (f : Option Bytes) : (s.setRaw f).sy = s.sy := rfl
@[simp] theorem setRaw_rx (f : Option Bytes) : (s.setRaw f).rx = { s.rx with raw := f } := rfl
@[simp] theorem setRaw_stop (f : Option Bytes) : (s.setRaw f).stop = s.stop := rfl
@[simp] theorem setRaw_ib (f : Option Bytes) : (s.setRaw f).ib = s.ib := rfl
@[simp] theorem setRaw_st (f : Option Bytes) : (s.setRaw f).st = s.st := rfl
@[simp] theorem setRaw_tx (f : Option Bytes) : (s.setRaw f).tx = s.tx := rfl
@[simp] theorem setRaw_txOverlap (f : Option Bytes) : (s.setRaw f).txOverlap = s.txOverlap := rfl
@[simp] theorem setRaw_trace (f : Option Bytes) : (s.setRaw f).trace = s.trace := rfl
@[simp] theorem setRaw_out (f : Option Bytes) : (s.setRaw f).out = s.out := rfl
@[simp] theorem setRaw_line (f : Option Bytes) : (s.setRaw f).line = s.line := rfl
@[simp] theorem setRaw_drawn (f : Option Bytes) : (s.setRaw f).drawn = s.drawn := rfl

/-! `setPay` -/

@[simp] theorem setPay_sy (p : Option Bytes) : (s.setPay p).sy = s.sy := rfl
@[simp] theorem setPay_rx (p : Option Bytes) : (s.setPay p).rx = { s.rx with pay := p } := rfl
@[simp] theorem setPay_stop (p : Option Bytes) : (s.setPay p).stop = s.stop := rfl
@[simp] theorem setPay_ib (p : Option Bytes) : (s.setPay p).ib = s.ib := rfl
@[simp] theorem setPay_st (p : Option Bytes) : (s.setPay p).st = s.st := rfl
@[simp] theorem setPay_tx (p : Option Bytes) : (s.setPay p).tx = s.tx := rfl
@[simp] theorem setPay_txOverlap (p : Option Bytes) : (s.setPay p).txOverlap = s.txOverlap := rfl
@[simp] theorem setPay_trace (p : Option Bytes) : (s.setPay p).trace = s.trace := rfl
@[simp] theorem setPay_out (p : Option Bytes) : (s.setPay p).out = s.out := rfl
@[simp] theorem setPay_line (p : Option Bytes) : (s.setPay p).line = s.line := rfl
@[simp] theorem setPay_drawn (p : Option Bytes) : (s.setPay p).drawn = s.drawn := rfl

/-! `setSync` -/

@[simp] theorem setSync_sy (sy : Sync) : (s.setSync sy).sy = sy := rfl
@[simp] theorem setSync_rx (sy : Sync) : (s.setSync sy).rx = s.rx := rfl
@[simp] theorem setSync_stop (sy : Sync) : (s.setSync sy).stop = s.stop := rfl
@[simp] theorem setSync_ib (sy : Sync) : (s.setSync sy).ib = s.ib := rfl
@[simp] theorem setSync_st (sy : Sync) : (s.setSync sy).st = s.st := rfl
@[simp] theorem setSync_tx (sy : Sync) : (s.setSync sy).tx = s.tx := rfl
@[simp] theorem setSync_txOverlap (sy : Sync) : (s.setSync sy).txOverlap = s.txOverlap := rfl
@[simp] theorem setSync_trace (sy : Sync) : (s.setSync sy).trace = s.trace := rfl
@[simp] theorem setSync_out (sy : Sync) : (s.setSync sy).out = s.out := rfl
@[simp] theorem setSync_line (sy : Sync) : (s.setSync sy).line = s.line := rfl
@[simp] theorem setSync_drawn (sy : Sync) : (s.setSync sy).drawn = s.drawn := rfl

/-! `setSlot` -/

@[simp] theorem setSlot_sy (p : Option Bytes) : (s.setSlot p).sy = s.sy := rfl
@[simp] theorem setSlot_rx (p : Option Bytes) : (s.setSlot p).rx = s.rx := rfl
@[simp] theorem setSlot_stop (p : Option Bytes) : (s.setSlot p).stop = s.stop := rfl
@[simp] theorem setSlot_ib (p : Option Bytes) : (s.setSlot p).ib = { s.ib with slot := p } := rfl
@[simp] theorem setSlot_st (p : Option Bytes) : (s.setSlot p).st = s.st := rfl
@[simp] theorem setSlot_tx (p : Option Bytes) : (s.setSlot p).tx = s.tx := rfl
@[simp] theorem setSlot_txOverlap (p : Option Bytes) : (s.setSlot p).txOverlap = s.txOverlap := rfl
@[simp] theorem setSlot_trace (p : Option Bytes) : (s.setSlot p).trace = s.trace := rfl
@[simp] theorem setSlot_out (p : Option Bytes) : (s.setSlot p).out = s.out := rfl
@[simp] theorem setSlot_line (p : Option Bytes) : (s.setSlot p).line = s.line := rfl
@[simp] theorem setSlot_drawn (p : Option Bytes) : (s.setSlot p).drawn = s.drawn := rfl

/-! `setCons` -/

@[simp] theorem setCons_sy (c : Nat) (k : Cons) : (s.setCons c k).sy = s.sy := rfl
@[simp] theorem setCons_rx (c : Nat) (k : Cons) : (s.setCons c k).rx = s.rx := rfl
@[simp] theorem setCons_stop (c : Nat) (k : Cons) : (s.setCons c k).stop = s.stop := rfl
@[simp] theorem setCons_ib (c : Nat) (k : Cons) : (s.setCons c k).ib = { s.ib with cons := s.ib.cons.set c k } := rfl
@[simp] theorem setCons_st (c : Nat) (k : Cons) : (s.setCons c k).st = s.st := rfl
@[simp] theorem setCons_tx (c : Nat) (k : Cons) : (s.setCons c k).tx = s.tx := rfl
@[simp] theorem setCons_txOverlap (c : Nat) (k : Cons) : (s.setCons c k).txOverlap = s.txOverlap := rfl
@[simp] theorem setCons_trace (c : Nat) (k : Cons) : (s.setCons c k).trace = s.trace := rfl
@[simp] theorem setCons_out (c : Nat) (k : Cons) : (s.setCons c k).out = s.out := rfl
@[simp] theorem setCons_line (c : Nat) (k : Cons) : (s.setCons c k).line = s.line := rfl
@[simp] theorem setCons_drawn (c : Nat) (k : Cons) : (s.setCons c k).drawn = s.drawn := rfl

/-! `setCtx` -/

@[simp] theorem setCtx_sy (t : Nat) (k : TxCtx) : (s.setCtx t k).sy = s.sy := rfl
@[simp] theorem setCtx_rx (t : Nat) (k : TxCtx) : (s.setCtx t k).rx = s.rx := rfl
@[simp] theorem setCtx_stop (t : Nat) (k : TxCtx) : (s.setCtx t k).stop = s.stop := rfl
@[simp] theorem setCtx_ib (t : Nat) (k : TxCtx) : (s.setCtx t k).ib = s.ib := rfl
@[simp] theorem setCtx_st (t : Nat) (k : TxCtx) : (s.setCtx t k).st = s.st := rfl
@[simp] theorem setCtx_tx (t : Nat) (k : TxCtx) : (s.setCtx t k).tx = { ctx := s.tx.ctx.set t k } := rfl
@[simp] theorem setCtx_txOverlap (t : Nat) (k : TxCtx) : (s.setCtx t k).txOverlap = s.txOverlap := rfl
@[simp] theorem setCtx_trace (t : Nat) (k : TxCtx) : (s.setCtx t k).trace = s.trace := rfl
@[simp] theorem setCtx_out (t : Nat) (k : TxCtx) : (s.setCtx t k).out = s.out := rfl
@[simp] theorem setCtx_line (t : Nat) (k : TxCtx) : (s.setCtx t k).line = s.line := rfl
@[simp] theorem setCtx_drawn (t : Nat) (k : TxCtx) : (s.setCtx t k).drawn = s.drawn := rfl

/-! `count` -/

@[simp] theorem count_sy (X : Counter) : (s.count X).sy = s.sy := rfl
@[simp] theorem count_rx (X : Counter) : (s.count X).rx = s.rx := rfl
@[simp] theorem count_stop (X : Counter) : (s.count X).stop = s.stop := rfl
@[simp] theorem count_ib (X : Counter) : (s.count X).ib = s.ib := rfl
@[simp] theorem count_st (X : Counter) : (s.count X).st = s.st.increment X := rfl
@[simp] theorem count_tx (X : Counter) : (s.count X).tx = s.tx := rfl
@[simp] theorem count_txOverlap (X : Counter) : (s.count X).txOverlap = s.txOverlap := rfl
@[simp] theorem count_trace (X : Counter) : (s.count X).trace = s.trace := rfl
@[simp] theorem count_out (X : Counter) : (s.count X).out = s.out := rfl
@[simp] theorem count_line (X : Counter) : (s.count X).line = s.line := rfl
@[simp] theorem count_drawn (X : Counter) : (s.count X).drawn = s.drawn := rfl

/-! `setStop` -/

@[simp] theorem setStop_sy : (s.setStop).sy = s.sy := rfl
@[simp] theorem setStop_rx : (s.setStop).rx = s.rx := rfl
@[simp] theorem setStop_stop : (s.setStop).stop = true := rfl
@[simp] theorem setStop_ib : (s.setStop).ib = s.ib := rfl
@[simp] theorem setStop_st : (s.setStop).st = s.st := rfl
@[simp] theorem setStop_tx : (s.setStop).tx = s.tx := rfl
@[simp] theorem setStop_txOverlap : (s.setStop).txOverlap = s.txOverlap := rfl
@[simp] theorem setStop_trace : (s.setStop).trace = s.trace := rfl
@[simp] theorem setStop_out : (s.setStop).out = s.out := rfl
@[simp] theorem setStop_line : (s.setStop).line = s.line := rfl
@[simp] theorem setStop_drawn : (s.setStop).drawn = s.drawn := rfl

/-! `resumeLoop` -/

@[simp] theorem resumeLoop_sy : (s.resumeLoop).sy = s.sy := rfl
@[simp] theorem resumeLoop_rx : (s.resumeLoop).rx = { s.rx with phase := phaseAfterFrame s.rx.chunk } := rfl
@[simp] theorem resumeLoop_stop : (s.resumeLoop).stop = s.stop := rfl
@[simp] theorem resumeLoop_ib : (s.resumeLoop).ib = s.ib := rfl
@[simp] theorem resumeLoop_st : (s.resumeLoop).st = s.st := rfl
@[simp] theorem resumeLoop_tx : (s.resumeLoop).tx = s.tx := rfl
@[simp] theorem resumeLoop_txOverlap : (s.resumeLoop).txOverlap = s.txOverlap := rfl
@[simp] theorem resumeLoop_trace : (s.resumeLoop).trace = s.trace := rfl
@[simp] theorem resumeLoop_out : (s.resumeLoop).out = s.out := rfl
@[simp] theorem resumeLoop_line : (s.resumeLoop).line = s.line := rfl
@[simp] theorem resumeLoop_drawn : (s.resumeLoop).drawn = s.drawn := rfl

/-! `markOverlap` -/

@[simp] theorem markOverlap_sy : (s.markOverlap).sy = s.sy := rfl
@[simp] theorem markOverlap_rx : (s.markOverlap).rx = s.rx := rfl
@[simp] theorem markOverlap_stop : (s.markOverlap).stop = s.stop := rfl
@[simp] theorem markOverlap_ib : (s.markOverlap).ib = s.ib := rfl
@[simp] theorem markOverlap_st : (s.markOverlap).st = s.st := rfl
@[simp] theorem markOverlap_tx : (s.markOverlap).tx = s.tx := rfl
@[simp] theorem markOverlap_txOverlap : (s.markOverlap).txOverlap = true := rfl
@[simp] theorem markOverlap_trace : (s.markOverlap).trace = s.trace := rfl
@[simp] theorem markOverlap_out : (s.markOverlap).out = s.out := rfl
@[simp] theorem markOverlap_line : (s.markOverlap).line = none := rfl
@[simp] theorem markOverlap_drawn : (s.markOverlap).drawn = s.drawn := rfl

/-! `putLine` -/

@[simp] theorem putLine_sy (bs : Bytes) : (s.putLine bs).sy = s.sy := rfl
@[simp] theorem putLine_rx (bs : Bytes) : (s.putLine bs).rx = s.rx := rfl
@[simp] theorem putLine_stop (bs : Bytes) : (s.putLine bs).stop = s.stop := rfl
@[simp] theorem putLine_ib (bs : Bytes) : (s.putLine bs).ib = s.ib := rfl
@[simp] theorem putLine_st (bs : Bytes) : (s.putLine bs).st = s.st := rfl
@[simp] theorem putLine_tx (bs : Bytes) : (s.putLine bs).tx = s.tx := rfl
@[simp] theorem putLine_txOverlap (bs : Bytes) : (s.putLine bs).txOverlap = s.txOverlap := rfl
@[simp] theorem putLine_trace (bs : Bytes) : (s.putLine bs).trace = s.trace := rfl
@[simp] theorem putLine_out (bs : Bytes) : (s.putLine bs).out = s.out := rfl
@[simp] theorem putLine_line (bs : Bytes) : (s.putLine bs).line = s.lineAfter bs := rfl
@[simp] theorem putLine_drawn (bs : Bytes) : (s.putLine bs).drawn = s.drawn + 1 := rfl

/-! `publish` -/

@[simp] theorem publish_sy (p : Bytes) (w : Option Nat) : (s.publish p w).sy = s.sy := rfl
@[simp] theorem publish_rx (p : Bytes) (w : Option Nat) : (s.publish p w).rx = s.rx := rfl
@[simp] theorem publish_stop (p : Bytes) (w : Option Nat) : (s.publish p w).stop = s.stop := rfl
@[simp] theorem publish_ib (p : Bytes) (w : Option Nat) : (s.publish p w).ib = { slot := some p, cons := notify s.ib.cons w } := rfl
@[simp] theorem publish_st (p : Bytes) (w : Option Nat) : (s.publish p w).st = s.st := rfl
@[simp] theorem publish_tx (p : Bytes) (w : Option Nat) : (s.publish p w).tx = s.tx := rfl
@[simp] theorem publish_txOverlap (p : Bytes) (w : Option Nat) : (s.publish p w).txOverlap = s.txOverlap := rfl
@[simp] theorem publish_trace (p : Bytes) (w : Option Nat) : (s.publish p w).trace = s.trace := rfl
@[simp] theorem publish_out (p : Bytes) (w : Option Nat) : (s.publish p w).out = s.out := rfl
@[simp] theorem publish_line (p : Bytes) (w : Option Nat) : (s.publish p w).line = s.line := rfl
@[simp] theorem publish_drawn (p : Bytes) (w : Option Nat) : (s.publish p w).drawn = s.drawn := rfl

end Sys2Proof.Machine
end

