-- ==== Sys2Proof/Laws/Ops.lean ====
section
/-! SUPPORT. What the shared operations can do, said once: the waiter choice, the cases of `feed`, the steps of the loop,
the resumption of a consumer, the two transmit steps, and the errors. -/

namespace Sys2Proof.Machine

/-! ### Waiters -/

theorem isWaiting_iff {k : Cons} : k.isWaiting = true ↔ ∃ n, k = .wait n := by
  cases k <;> simp [Cons.isWaiting]

theorem isWaiter_iff {cons : List Cons} {c : Nat} :
    isWaiter cons c = true ↔ ∃ k : Nat, cons[c]? = some (.wait k) := by
  unfold isWaiter
  cases h : cons[c]? with
  | none => simp
  | some k => simp [isWaiting_iff]

theorem no_waiter_iff {cons : List Cons} :
    cons.any Cons.isWaiting = false ↔ ∀ c k : Nat, cons[c]? ≠ some (.wait k) := by
  constructor
  · intro h c k hc
    exact (List.any_eq_false.1 h _ (List.mem_of_getElem? hc)) rfl
  · intro h
    refine List.any_eq_false.2 fun k hk hw => ?_
    obtain ⟨n, rfl⟩ := isWaiting_iff.1 hw
    obtain ⟨c, hc⟩ := List.mem_iff_getElem?.1 hk
    exact h c n hc

theorem waiterLegal_none_iff {cons : List Cons} :
    waiterLegal cons none = true ↔ ∀ c k : Nat, cons[c]? ≠ some (.wait k) := by
  simp [waiterLegal, ← no_waiter_iff]

theorem waiterLegal_some_iff {cons : List Cons} {c : Nat} :
    waiterLegal cons (some c) = true ↔ ∃ k : Nat, cons[c]? = some (.wait k) := isWaiter_iff

@[simp] theorem notify_length (cons : List Cons) (w : Option Nat) : (notify cons w).length = cons.length := by
  cases w <;> simp [notify]

theorem notify_other {cons : List Cons} {w : Option Nat} {d : Nat} (h : w ≠ some d) :
    (notify cons w)[d]? = cons[d]? := by
  cases w with
  | none => rfl
  | some c => exact List.getElem?_set_ne (by simpa using h)

/-! ### Transmit contexts -/

theorem isWriting_iff {k : TxCtx} : k.isWriting = true ↔ ∃ raw, k = .wr raw := by
  cases k <;> simp [TxCtx.isWriting]

theorem anotherWrites_iff {ctx : List TxCtx} {t : Nat} :
    anotherWrites ctx t = true ↔ ∃ (u : Nat) (raw : Bytes), u ≠ t ∧ ctx[u]? = some (.wr raw) := by
  unfold anotherWrites
  rw [List.any_eq_true]
  constructor
  · rintro ⟨k, hk, hw⟩
    obtain ⟨raw, rfl⟩ := isWriting_iff.1 hw
    obtain ⟨u, hu⟩ := List.mem_iff_getElem?.1 hk
    by_cases hut : t = u
    · subst hut
      simp only [List.getElem?_set_self'] at hu
      cases hc : ctx[t]? <;> simp [hc] at hu
    · exact ⟨u, raw, fun h => hut h.symm, by rwa [List.getElem?_set_ne hut] at hu⟩
  · rintro ⟨u, raw, hut, hu⟩
    exact ⟨.wr raw, List.mem_of_getElem? (by rw [List.getElem?_set_ne (Ne.symm hut)]; exact hu), rfl⟩

/-! ### The feed function -/

theorem feed_start {flag b : Byte} {sy : Sync} (hs : sy.state = .idle) (hp : sy.prev = some flag) (hb : b ≠ flag) :
    sy.feed flag b = ({ state := .receiving, prev := some b, buf := [flag, b] }, none) := by
  simp [Sync.feed, hs, hp, hb]

theorem feed_data {flag b : Byte} {sy : Sync} (hs : sy.state = .receiving) (hb : b ≠ flag) :
    sy.feed flag b = ({ state := .receiving, prev := some b, buf := sy.buf ++ [b] }, none) := by
  simp [Sync.feed, hs, hb]

theorem feed_close {flag : Byte} {sy : Sync} (hs : sy.state = .receiving) :
    sy.feed flag flag = ({ state := .idle, prev := none, buf := [] }, some (sy.buf ++ [flag])) := by
  simp [Sync.feed, hs]

theorem feed_skip {flag b : Byte} {sy : Sync} (hs : sy.state = .idle) (h : b = flag ∨ sy.prev ≠ some flag) :
    sy.feed flag b = ({ state := .idle, prev := some b, buf := sy.buf }, none) := by
  rcases h with rfl | h
  · simp [Sync.feed, hs]
  · simp [Sync.feed, hs, h]

/-- Every feed is one of the four cases. -/
theorem feed_cases (flag b : Byte) (sy : Sync) :
    (sy.state = .idle ∧ sy.prev = some flag ∧ b ≠ flag ∧
      sy.feed flag b = ({ state := .receiving, prev := some b, buf := [flag, b] }, none)) ∨
    (sy.state = .receiving ∧ b ≠ flag ∧
      sy.feed flag b = ({ state := .receiving, prev := some b, buf := sy.buf ++ [b] }, none)) ∨
    (sy.state = .receiving ∧ b = flag ∧
      sy.feed flag b = ({ state := .idle, prev := none, buf := [] }, some (sy.buf ++ [flag]))) ∨
    (sy.state = .idle ∧ (b = flag ∨ sy.prev ≠ some flag) ∧
      sy.feed flag b = ({ state := .idle, prev := some b, buf := sy.buf }, none)) := by
  cases hs : sy.state with
  | idle =>
    by_cases h : b = flag ∨ sy.prev ≠ some flag
    · exact .inr (.inr (.inr ⟨rfl, h, feed_skip hs h⟩))
    · simp only [not_or, not_not, ne_eq] at h
      exact .inl ⟨rfl, h.2, h.1, feed_start hs h.2 h.1⟩
  | receiving =>
    by_cases h : b = flag
    · subst h; exact .inr (.inr (.inl ⟨rfl, rfl, feed_close hs⟩))
    · exact .inr (.inl ⟨rfl, h, feed_data hs h⟩)

@[simp] theorem feedAll_nil (flag : Byte) (sy : Sync) : sy.feedAll flag [] = (sy, []) := rfl

theorem feedAll_cons (flag b : Byte) (sy : Sync) (bs : Bytes) :
    sy.feedAll flag (b :: bs) =
      (((sy.feed flag b).1.feedAll flag bs).1,
        (sy.feed flag b).2.toList ++ ((sy.feed flag b).1.feedAll flag bs).2) := rfl

/-! ### The steps of the loop -/

@[simp] theorem phaseAfterFrame_nil : phaseAfterFrame [] = .top := rfl

@[simp] theorem phaseAfterFrame_cons (b : Byte) (bs : Bytes) : phaseAfterFrame (b :: bs) = .feeding := rfl

/-- A step in FEEDING that closes no frame. -/
theorem feedStep_open {flag b : Byte} {rest : Bytes} {s : State} {sy : Sync} (h : s.sy.feed flag b = (sy, none)) :
    feedStep flag b rest s =
      { s with sy := sy, rx := { s.rx with phase := phaseAfterFrame rest, chunk := rest } } := by
  simp only [feedStep, h]
  rfl

/-- A step in FEEDING that closes a frame. -/
theorem feedStep_closed {flag b : Byte} {rest f : Bytes} {s : State} {sy : Sync}
    (h : s.sy.feed flag b = (sy, some f)) :
    feedStep flag b rest s =
      { s with sy := sy, rx := { s.rx with phase := .decoding, chunk := rest, raw := some f },
               st := { s.st with rxTotal := s.st.rxTotal + 1 } } := by
  simp only [feedStep, h]
  rfl

theorem decodeStep_ok (p : Bytes) (s : State) :
    decodeStep (.ok p) s =
      { s with rx := { s.rx with phase := .publishing, raw := none, pay := some p },
               st := { s.st with rxGood := s.st.rxGood + 1 } } := rfl

theorem decodeStep_formatError (s : State) :
    decodeStep .formatError s =
      { s with rx := { s.rx with phase := phaseAfterFrame s.rx.chunk, raw := none },
               st := { s.st with rxBad := s.st.rxBad + 1 } } := rfl

theorem publishStep_eq (p : Bytes) (w : Option Nat) (s : State) :
    publishStep p w s =
      { s with ib := { slot := some p, cons := notify s.ib.cons w },
               rx := { s.rx with phase := phaseAfterFrame s.rx.chunk, pay := none } } := rfl

theorem topStep_stop {s : State} (h : s.stop = true) :
    topStep s = { s with rx := { s.rx with phase := .exited }, out := s.out ++ [.xclose] } := by
  simp [topStep, h, State.setPhase, State.respond]

theorem topStep_go {s : State} (h : s.stop = false) :
    topStep s = { s with rx := { s.rx with phase := .poll } } := by
  simp [topStep, h, State.setPhase]

/-! ### A consumer's resumption -/

theorem resume_some {c : Nat} {p : Bytes} {s : State} (h : s.ib.slot = some p) :
    resume c s = { s with ib := { slot := none, cons := s.ib.cons.set c .idle },
                          out := s.out ++ [.takeR c p p.length] } := by
  simp only [resume, h]
  rfl

theorem resume_none {c : Nat} {s : State} (h : s.ib.slot = none) :
    resume c s = { s with ib := { slot := none, cons := s.ib.cons.set c .idle },
                          out := s.out ++ [.takeR c [] (-1)] } := by
  simp only [resume, h, State.respond, State.setCons]

/-! ### The transmit steps -/

theorem encodeStep_formatError (t : Nat) (s : State) :
    encodeStep .formatError t s =
      { s with tx := { ctx := s.tx.ctx.set t .idle }, st := { s.st with txBad := s.st.txBad + 1 },
               out := s.out ++ [.xmitR t .encodeError] } := rfl

theorem encodeStep_alone {raw : Bytes} {t : Nat} {s : State} (h : anotherWrites s.tx.ctx t = false) :
    encodeStep (.ok raw) t s = { s with tx := { ctx := s.tx.ctx.set t (.wr raw) } } := by
  simp [encodeStep, h, State.setCtx]

theorem encodeStep_overlap {raw : Bytes} {t : Nat} {s : State} (h : anotherWrites s.tx.ctx t = true) :
    encodeStep (.ok raw) t s =
      { s with tx := { ctx := s.tx.ctx.set t (.wr raw) }, txOverlap := true, line := none } := by
  simp [encodeStep, h, State.setCtx, State.markOverlap]

theorem writeStep_ok (raw : Bytes) (t : Nat) (s : State) :
    writeStep raw t true s =
      { s with tx := { ctx := s.tx.ctx.set t .idle }, st := { s.st with txGood := s.st.txGood + 1 },
               out := s.out ++ [.txbytes t (s.streamed raw), .xmitR t .ok],
               line := s.lineAfter (s.streamed raw), drawn := s.drawn + 1 } := by
  simp [writeStep, State.respond, State.putLine, State.count, State.setCtx, Stats.increment]
  rfl

theorem writeStep_fail (raw : Bytes) (t : Nat) (s : State) :
    writeStep raw t false s =
      { s with tx := { ctx := s.tx.ctx.set t .idle }, st := { s.st with txBad := s.st.txBad + 1 },
               out := s.out ++ [.xmitR t .writeError],
               line := s.lineAfter (s.leaked raw), drawn := s.drawn + 1 } := rfl

theorem streamed_of_no_overlap {s : State} (h : s.txOverlap = false) (raw : Bytes) : s.streamed raw = raw := by
  simp [State.streamed, h]

theorem lineAfter_of_no_overlap {s : State} (h : s.txOverlap = false) (bs : Bytes) :
    s.lineAfter bs = s.line.map (· ++ bs) := by
  simp [State.lineAfter, h]

theorem lineAfter_of_overlap {s : State} (h : s.txOverlap = true) (bs : Bytes) : s.lineAfter bs = none := by
  simp [State.lineAfter, h]

end Sys2Proof.Machine
end

