-- ==== Sys2Proof/Laws/Exec.lean ====
section
/-! SUPPORT. One inversion lemma per meaning: if it answers a next state, under which conditions it does and which state
that is. Later proofs cite these and do not unfold the meanings. -/

namespace Sys2Proof.Machine

variable {s t : State}

theorem execStart_next (h : execStart s = .next t) : s.rx.phase = .off ∧ t = s.setPhase .top := by
  unfold execStart at h
  split at h
  · next hp => cases h; exact ⟨hp, rfl⟩
  · cases h

theorem execStop_next (h : execStop s = .next t) : t = s.setStop := by cases h; rfl

theorem execClear_next (h : execClear s = .next t) : t = { s with st := Stats.zero } := by cases h; rfl

theorem execSnap_next (h : execSnap s = .next t) : t = s.respond (.snapR s.st) := by cases h; rfl

theorem execAlive_next (h : execAlive s = .next t) : t = s.respond (.aliveR s.alive) := by cases h; rfl

theorem execRxdata_next {bs : Bytes} (h : execRxdata bs s = .next t) :
    s.rx.phase = .poll ∧
      (bs = [] ∧ t = s.setPhase .top ∨ bs ≠ [] ∧ t = (s.setChunk bs).setPhase .feeding) := by
  unfold execRxdata at h
  split at h
  · next hp =>
    split at h
    · next hb => cases h; exact ⟨hp, .inl ⟨hb, rfl⟩⟩
    · next hb => cases h; exact ⟨hp, .inr ⟨hb, rfl⟩⟩
  · cases h

theorem execRxerr_next (h : execRxerr s = .next t) :
    s.rx.phase = .poll ∧ t = (s.setStop.setPhase .exited).respond .xclose := by
  unfold execRxerr at h
  split at h
  · next hp => cases h; exact ⟨hp, rfl⟩
  · cases h

/-- RXSTEP has a step in four phases, with the data that phase holds. -/
theorem rxstepEvent_next {flag : Byte} {decode : Bytes → CodecResult} {w : Option Nat}
    (h : rxstepEvent flag decode w s = .next t) :
    (s.rx.phase = .top ∧ w = none ∧ t = topStep s) ∨
    (∃ b rest, s.rx.phase = .feeding ∧ w = none ∧ s.rx.chunk = b :: rest ∧ t = feedStep flag b rest s) ∨
    (∃ f, s.rx.phase = .decoding ∧ w = none ∧ s.rx.raw = some f ∧
      t = decodeStep (decode f) (s.respond (.decodeCall f))) ∨
    (∃ p, s.rx.phase = .publishing ∧ waiterLegal s.ib.cons w = true ∧ s.rx.pay = some p ∧
      t = publishStep p w s) := by
  unfold rxstepEvent at h
  split at h <;> rename_i hp
  · cases h
  · cases h
  · cases h
  · split at h
    · next hw => cases h; exact .inl ⟨hp, hw, rfl⟩
    · cases h
  · split at h
    · next hw =>
      split at h
      · cases h
      · next b rest hc => cases h; exact .inr (.inl ⟨b, rest, hp, hw, hc, rfl⟩)
    · cases h
  · split at h
    · next hw =>
      split at h
      · cases h
      · next f hf => cases h; exact .inr (.inr (.inl ⟨f, hp, hw, hf, rfl⟩))
    · cases h
  · split at h
    · next hw =>
      split at h
      · cases h
      · next p hq => cases h; exact .inr (.inr (.inr ⟨p, hp, hw, hq, rfl⟩))
    · cases h

theorem execTake_next {c n : Nat} (h : execTake c n s = .next t) :
    s.ib.cons[c]? = some .idle ∧ t = s.setCons c (.wait n) := by
  unfold execTake at h
  split at h
  · cases h
  · next hc => cases h; exact ⟨hc, rfl⟩
  · cases h
  · cases h

theorem execTakeend_next {c : Nat} (h : execTakeend c s = .next t) :
    (s.ib.cons[c]? = some .notified ∨ s.ib.cons[c]? = some (.wait 0)) ∧ t = resume c s := by
  unfold execTakeend at h
  split at h
  · cases h
  · cases h
  · next hc => cases h; exact ⟨.inl hc, rfl⟩
  · next hc => cases h; exact ⟨.inr hc, rfl⟩
  · cases h

theorem execTick_next (h : execTick s = .next t) :
    t = { s with ib := { s.ib with cons := s.ib.cons.map Cons.tick } } := by cases h; rfl

theorem execPub_next {w : Option Nat} {p : Bytes} (h : execPub w p s = .next t) :
    s.rx.phase = .off ∧ waiterLegal s.ib.cons w = true ∧ t = s.publish p w := by
  unfold execPub at h
  split at h
  · next hp =>
    split at h
    · next hw => cases h; exact ⟨hp, hw, rfl⟩
    · cases h
  · cases h

theorem execXmit_next {c : Nat} {p : Bytes} (h : execXmit c p s = .next t) :
    s.tx.ctx[c]? = some .idle ∧ t = (s.count .txTotal).setCtx c (.enc p) := by
  unfold execXmit at h
  split at h
  · cases h
  · next hc => cases h; exact ⟨hc, rfl⟩
  · cases h
  · cases h

/-- TXSTEP has a step in two phases of its caller. -/
theorem txstepEvent_next {encode : Bytes → CodecResult} {c : Nat} {wok : Bool}
    (h : txstepEvent encode c wok s = .next t) :
    (∃ p, s.tx.ctx[c]? = some (.enc p) ∧ wok = false ∧
      t = encodeStep (encode p) c (s.respond (.encodeCall p))) ∨
    (∃ raw, s.tx.ctx[c]? = some (.wr raw) ∧ t = writeStep raw c wok s) := by
  unfold txstepEvent at h
  split at h
  · cases h
  · cases h
  · next p hc =>
    split at h
    · cases h
    · next hw => cases h; exact .inl ⟨p, hc, by simpa using hw, rfl⟩
  · next raw hc => cases h; exact .inr ⟨raw, hc, rfl⟩

theorem feedEvent_next {flag b : Byte} (h : feedEvent flag b s = .next t) :
    s.rx.phase = .off ∧ t = (s.setSync (s.sy.feed flag b).1).respond (.feedR (s.sy.feed flag b).2) := by
  unfold feedEvent at h
  split at h
  · next hp => cases h; exact ⟨hp, rfl⟩
  · cases h

end Sys2Proof.Machine
end

