-- ==== Sys2Proof/Laws/Effect.lean ====
section
/-! SUPPORT. Said once: everything a label can do. `Effect i s t` lists, with its condition, each next state that `exec`
can answer, written out field by field; `exec_effect` is the inversion of `exec`. A property of all steps is a case
analysis of `Effect`. -/

namespace Sys2Proof.Machine

/-- The next states of a label, case by case. -/
inductive Effect : Instr → State → State → Prop where
  | start (s : State) : s.rx.phase = .off → Effect .start s { s with rx := { s.rx with phase := .top } }
  | stop (s : State) : Effect .stop s { s with stop := true }
  | clear (s : State) : Effect .clear s { s with st := Stats.zero }
  | snap (s : State) : Effect .snap s { s with out := s.out ++ [.snapR s.st] }
  | alive (s : State) : Effect .alive s { s with out := s.out ++ [.aliveR s.alive] }
  | rxdataEmpty (s : State) : s.rx.phase = .poll →
      Effect (.rxdata []) s { s with rx := { s.rx with phase := .top } }
  | rxdata (s : State) (bs : Bytes) : s.rx.phase = .poll → bs ≠ [] →
      Effect (.rxdata bs) s { s with rx := { s.rx with phase := .feeding, chunk := bs } }
  | rxerr (s : State) : s.rx.phase = .poll →
      Effect .rxerr s
        { s with stop := true, rx := { s.rx with phase := .exited }, out := s.out ++ [.xclose] }
  | topStop (s : State) : s.rx.phase = .top → s.stop = true →
      Effect (.rxstep none) s { s with rx := { s.rx with phase := .exited }, out := s.out ++ [.xclose] }
  | topGo (s : State) : s.rx.phase = .top → s.stop = false →
      Effect (.rxstep none) s { s with rx := { s.rx with phase := .poll } }
  | feedOpen (s : State) (b : Byte) (rest : Bytes) (sy : Sync) : s.rx.phase = .feeding → s.rx.chunk = b :: rest →
      s.sy.feed Config.flag b = (sy, none) →
      Effect (.rxstep none) s
        { s with sy := sy, rx := { s.rx with phase := phaseAfterFrame rest, chunk := rest } }
  | feedClosed (s : State) (b : Byte) (rest f : Bytes) (sy : Sync) : s.rx.phase = .feeding →
      s.rx.chunk = b :: rest → s.sy.feed Config.flag b = (sy, some f) →
      Effect (.rxstep none) s
        { s with sy := sy, rx := { s.rx with phase := .decoding, chunk := rest, raw := some f },
                 st := { s.st with rxTotal := s.st.rxTotal + 1 } }
  | decodeOk (s : State) (f p : Bytes) : s.rx.phase = .decoding → s.rx.raw = some f → Config.decode f = .ok p →
      Effect (.rxstep none) s
        { s with rx := { s.rx with phase := .publishing, raw := none, pay := some p },
                 st := { s.st with rxGood := s.st.rxGood + 1 }, out := s.out ++ [.decodeCall f] }
  | decodeFails (s : State) (f : Bytes) : s.rx.phase = .decoding → s.rx.raw = some f →
      Config.decode f = .formatError →
      Effect (.rxstep none) s
        { s with rx := { s.rx with phase := phaseAfterFrame s.rx.chunk, raw := none },
                 st := { s.st with rxBad := s.st.rxBad + 1 }, out := s.out ++ [.decodeCall f] }
  | publishing (s : State) (w : Option Nat) (p : Bytes) : s.rx.phase = .publishing →
      waiterLegal s.ib.cons w = true → s.rx.pay = some p →
      Effect (.rxstep w) s
        { s with ib := { slot := some p, cons := notify s.ib.cons w },
                 rx := { s.rx with phase := phaseAfterFrame s.rx.chunk, pay := none } }
  | take (s : State) (c n : Nat) : s.ib.cons[c]? = some .idle →
      Effect (.take c n) s { s with ib := { s.ib with cons := s.ib.cons.set c (.wait n) } }
  | takeFrame (s : State) (c : Nat) (p : Bytes) :
      (s.ib.cons[c]? = some .notified ∨ s.ib.cons[c]? = some (.wait 0)) → s.ib.slot = some p →
      Effect (.takeend c) s
        { s with ib := { slot := none, cons := s.ib.cons.set c .idle }, out := s.out ++ [.takeR c p p.length] }
  | takeNothing (s : State) (c : Nat) :
      (s.ib.cons[c]? = some .notified ∨ s.ib.cons[c]? = some (.wait 0)) → s.ib.slot = none →
      Effect (.takeend c) s
        { s with ib := { slot := none, cons := s.ib.cons.set c .idle }, out := s.out ++ [.takeR c [] (-1)] }
  | tick (s : State) : Effect .tick s { s with ib := { s.ib with cons := s.ib.cons.map Cons.tick } }
  | xmit (s : State) (c : Nat) (p : Bytes) : s.tx.ctx[c]? = some .idle →
      Effect (.xmit c p) s
        { s with tx := { ctx := s.tx.ctx.set c (.enc p) }, st := { s.st with txTotal := s.st.txTotal + 1 } }
  | encodeFails (s : State) (c : Nat) (p : Bytes) : s.tx.ctx[c]? = some (.enc p) →
      Config.encode p = .formatError →
      Effect (.txstep c false) s
        { s with tx := { ctx := s.tx.ctx.set c .idle }, st := { s.st with txBad := s.st.txBad + 1 },
                 out := s.out ++ [.encodeCall p, .xmitR c .encodeError] }
  | encodeAlone (s : State) (c : Nat) (p raw : Bytes) : s.tx.ctx[c]? = some (.enc p) →
      Config.encode p = .ok raw → anotherWrites s.tx.ctx c = false →
      Effect (.txstep c false) s
        { s with tx := { ctx := s.tx.ctx.set c (.wr raw) }, out := s.out ++ [.encodeCall p] }
  | encodeOverlap (s : State) (c : Nat) (p raw : Bytes) : s.tx.ctx[c]? = some (.enc p) →
      Config.encode p = .ok raw → anotherWrites s.tx.ctx c = true →
      Effect (.txstep c false) s
        { s with tx := { ctx := s.tx.ctx.set c (.wr raw) }, txOverlap := true, out := s.out ++ [.encodeCall p],
                 line := none }
  | writeOk (s : State) (c : Nat) (raw : Bytes) : s.tx.ctx[c]? = some (.wr raw) →
      Effect (.txstep c true) s
        { s with tx := { ctx := s.tx.ctx.set c .idle }, st := { s.st with txGood := s.st.txGood + 1 },
                 out := s.out ++ [.txbytes c (s.streamed raw), .xmitR c .ok],
                 line := s.lineAfter (s.streamed raw), drawn := s.drawn + 1 }
  | writeFails (s : State) (c : Nat) (raw : Bytes) : s.tx.ctx[c]? = some (.wr raw) →
      Effect (.txstep c false) s
        { s with tx := { ctx := s.tx.ctx.set c .idle }, st := { s.st with txBad := s.st.txBad + 1 },
                 out := s.out ++ [.xmitR c .writeError],
                 line := s.lineAfter (s.leaked raw), drawn := s.drawn + 1 }
  | feed (s : State) (b : Byte) : s.rx.phase = .off →
      Effect (.feed b) s
        { s with sy := (s.sy.feed Config.flag b).1, out := s.out ++ [.feedR (s.sy.feed Config.flag b).2] }
  | pub (s : State) (w : Option Nat) (p : Bytes) : s.rx.phase = .off → waiterLegal s.ib.cons w = true →
      Effect (.pub w p) s { s with ib := { slot := some p, cons := notify s.ib.cons w } }

variable {s t : State}

theorem effect_of_rxdata {bs : Bytes} (h : execRxdata bs s = .next t) : Effect (.rxdata bs) s t := by
  obtain ⟨hp, ⟨rfl, rfl⟩ | ⟨hb, rfl⟩⟩ := execRxdata_next h
  · exact .rxdataEmpty s hp
  · exact .rxdata s bs hp hb

theorem effect_of_rxstep {w : Option Nat} (h : execRxstep w s = .next t) : Effect (.rxstep w) s t := by
  obtain ⟨hp, rfl, rfl⟩ | ⟨b, rest, hp, rfl, hc, rfl⟩ | ⟨f, hp, rfl, hf, rfl⟩ | ⟨p, hp, hw, hq, rfl⟩ :=
    rxstepEvent_next h
  · cases hs : s.stop with
    | true => rw [topStep_stop hs]; exact .topStop s hp hs
    | false => rw [topStep_go hs]; exact .topGo s hp hs
  · rcases hr : s.sy.feed Config.flag b with ⟨sy, _ | f⟩
    · rw [feedStep_open hr]; exact .feedOpen s b rest sy hp hc hr
    · rw [feedStep_closed hr]; exact .feedClosed s b rest f sy hp hc hr
  · cases hd : Config.decode f with
    | ok p => exact .decodeOk s f p hp hf hd
    | formatError => exact .decodeFails s f hp hf hd
  · exact .publishing s w p hp hw hq

theorem effect_of_takeend {c : Nat} (h : execTakeend c s = .next t) : Effect (.takeend c) s t := by
  obtain ⟨hc, rfl⟩ := execTakeend_next h
  cases hs : s.ib.slot with
  | some p => rw [resume_some hs]; exact .takeFrame s c p hc hs
  | none => rw [resume_none hs]; exact .takeNothing s c hc hs

theorem effect_of_txstep {c : Nat} {wok : Bool} (h : execTxstep c wok s = .next t) : Effect (.txstep c wok) s t := by
  obtain ⟨p, hc, rfl, rfl⟩ | ⟨raw, hc, rfl⟩ := txstepEvent_next h
  · cases he : Config.encode p with
    | formatError =>
      rw [encodeStep_formatError]
      simpa using Effect.encodeFails s c p hc he
    | ok raw =>
      cases ha : anotherWrites s.tx.ctx c with
      | false => rw [encodeStep_alone (s := s.respond _) ha]; exact .encodeAlone s c p raw hc he ha
      | true => rw [encodeStep_overlap (s := s.respond _) ha]; exact .encodeOverlap s c p raw hc he ha
  · cases wok with
    | true => rw [writeStep_ok]; exact .writeOk s c raw hc
    | false => exact .writeFails s c raw hc

/-- The inversion of `exec`. -/
theorem exec_effect {i : Instr} (h : exec i s = .next t) : Effect i s t := by
  cases i with
  | start => obtain ⟨hp, rfl⟩ := execStart_next h; exact .start s hp
  | stop => obtain rfl := execStop_next h; exact .stop s
  | clear => obtain rfl := execClear_next h; exact .clear s
  | snap => obtain rfl := execSnap_next h; exact .snap s
  | alive => obtain rfl := execAlive_next h; exact .alive s
  | rxdata bs => exact effect_of_rxdata h
  | rxerr => obtain ⟨hp, rfl⟩ := execRxerr_next h; exact .rxerr s hp
  | rxstep w => exact effect_of_rxstep h
  | take c n => obtain ⟨hc, rfl⟩ := execTake_next h; exact .take s c n hc
  | takeend c => exact effect_of_takeend h
  | tick => obtain rfl := execTick_next h; exact .tick s
  | xmit c p => obtain ⟨hc, rfl⟩ := execXmit_next h; exact .xmit s c p hc
  | txstep c wok => exact effect_of_txstep h
  | feed b => obtain ⟨hp, rfl⟩ := feedEvent_next h; exact .feed s b hp
  | pub w p => obtain ⟨hp, hw, rfl⟩ := execPub_next h; exact .pub s w p hp hw

end Sys2Proof.Machine
end

