-- ==== Sys2Proof/Laws/PerInstr.lean ====
section
/-! SUPPORT. Per-instruction families. `EventLength`: the encoder writes as many words as rule R84 says the event has. -/

namespace Sys2Proof.Laws.EventLength

/-- The length of an event, from its label alone (rule R84). -/
def Statement (i : Instr) : Prop := (encode i).length = i.words

theorem start : Statement .start := rfl
theorem stop : Statement .stop := rfl
theorem clear : Statement .clear := rfl
theorem snap : Statement .snap := rfl
theorem alive : Statement .alive := rfl
theorem rxdata (bs : Bytes) : Statement (.rxdata bs) := by simp [Statement, encode, Instr.words, Nat.add_comm]
theorem rxerr : Statement .rxerr := rfl
theorem rxstep (w : Option Nat) : Statement (.rxstep w) := rfl
theorem take (c n : Nat) : Statement (.take c n) := rfl
theorem takeend (c : Nat) : Statement (.takeend c) := rfl
theorem tick : Statement .tick := rfl
theorem xmit (t : Nat) (p : Bytes) : Statement (.xmit t p) := by simp [Statement, encode, Instr.words, Nat.add_comm]
theorem txstep (t : Nat) (wok : Bool) : Statement (.txstep t wok) := rfl
theorem feed (b : Byte) : Statement (.feed b) := rfl
theorem pub (w : Option Nat) (p : Bytes) : Statement (.pub w p) := by
  simp [Statement, encode, Instr.words, Nat.add_comm]

end Sys2Proof.Laws.EventLength
end

