-- ==== Sys2Proof/Machine/TraceText.lean ====
section
/-! DEFINITION. The text form of a trace (rule R85) with its pseudo-events (rule R86): a reader from characters to
instructions, and a writer for events and responses. The delimiter is an argument, since `FL` stands for it. -/

namespace Sys2Proof.Machine

/-! ### Words of a line -/

/-- The pieces a line of a trace is made of. -/
inductive Token where
  | word (cs : List Char)
  | comma
  | openBracket
  | closeBracket
  | equals
  | star
  deriving DecidableEq, Repr

/-- The word collected so far, held last character first, as a token. -/
def flushWord (acc : List Char) : List Token := if acc = [] then [] else [.word acc.reverse]

/-- The tokens of one line; a comment runs from `#` to its end (rule R85). -/
def tokens : List Char → List Char → List Token
  | [], acc => flushWord acc
  | c :: cs, acc =>
    if c = '#' then flushWord acc
    else if c = ' ' || c = '\t' || c = '\r' then flushWord acc ++ tokens cs []
    else if c = ',' then flushWord acc ++ .comma :: tokens cs []
    else if c = '[' then flushWord acc ++ .openBracket :: tokens cs []
    else if c = ']' then flushWord acc ++ .closeBracket :: tokens cs []
    else if c = '=' then flushWord acc ++ .equals :: tokens cs []
    else if c = '*' then flushWord acc ++ .star :: tokens cs []
    else tokens cs (c :: acc)

/-- The lines of a text; the second argument is the line begun, last character first. -/
def textLines : List Char → List Char → List (List Char)
  | [], acc => [acc.reverse]
  | c :: cs, acc => if c = '\n' then acc.reverse :: textLines cs [] else textLines cs (c :: acc)

/-! ### Numbers and bytes -/

/-- The value of a hexadecimal digit. -/
def digitValue (c : Char) : Option Nat :=
  let n := c.toNat
  if 48 ≤ n ∧ n ≤ 57 then some (n - 48)
  else if 65 ≤ n ∧ n ≤ 70 then some (n - 55)
  else if 97 ≤ n ∧ n ≤ 102 then some (n - 87)
  else none

/-- The value of digits to a base, behind the value read so far. -/
def readDigits (base : Nat) : List Char → Nat → Option Nat
  | [], v => some v
  | c :: cs, v =>
    match digitValue c with
    | some d => if d < base then readDigits base cs (v * base + d) else none
    | none => none

/-- A number, decimal or `0x` hexadecimal (rule R85). -/
def readNumber : List Char → Option Nat
  | [] => none
  | '0' :: 'x' :: c :: cs => readDigits 16 (c :: cs) 0
  | c :: cs => readDigits 10 (c :: cs) 0

/-- A byte operand written as a number. -/
def readByteNumber (cs : List Char) : Option Byte :=
  match readNumber cs with
  | some n => if n < 256 then some (BitVec.ofNat 8 n) else none
  | none => none

/-- One byte of a byte sequence: a hex pair, or `FL` for the delimiter (rule R85). -/
def readPair (flag : Byte) : List Char → Option Byte
  | ['F', 'L'] => some flag
  | [a, b] =>
    match digitValue a, digitValue b with
    | some x, some y => some (BitVec.ofNat 8 (x * 16 + y))
    | _, _ => none
  | _ => none

/-- The bytes up to the closing bracket, and what follows it. -/
def readBytesTail (flag : Byte) : List Token → Option (Bytes × List Token)
  | .closeBracket :: rest => some ([], rest)
  | .word w :: rest =>
    match readPair flag w, readBytesTail flag rest with
    | some b, some (bs, rest') => some (b :: bs, rest')
    | _, _ => none
  | _ => none

/-- A whole operand that is one byte sequence in brackets. -/
def readBytes (flag : Byte) : List Token → Option Bytes
  | .openBracket :: rest =>
    match readBytesTail flag rest with
    | some (bs, []) => some bs
    | _ => none
  | _ => none

/-! ### Pseudo-events -/

/-- `TAKEW c, N`: a take that runs to its timeout (rule R86). -/
def takeToTimeout (c n : Nat) : List Instr := .take c n :: (List.replicate n .tick ++ [.takeend c])

/-- `XMITOK t, [p]`: a transmit whose encode and write both succeed (rule R86). -/
def xmitOk (t : Nat) (p : Bytes) : List Instr := [.xmit t p, .txstep t false, .txstep t true]

/-- `FEEDS [b0 b1 ... bn]` (rule R86). -/
def feeds (bs : Bytes) : List Instr := bs.map .feed

/-! ### Lines -/

/-- A mnemonic with no operand. -/
def readPlain (args : List Token) (i : Instr) : Option (List Instr) := if args = [] then some [i] else none

/-- A mnemonic with no operand or with `*k` behind it (rule R86). -/
def readRepeated (args : List Token) (i : Instr) : Option (List Instr) :=
  match args with
  | [] => some [i]
  | [.star, .word k] => (readNumber k).map fun n => List.replicate n i
  | _ => none

/-- The waiter choice of `w=c` (rule R85). -/
def readWaiter (c : List Char) : Option (Option Nat) := (readNumber c).map waiterOfId

/-- The operands of each mnemonic of rules R85 and R86. -/
def readEvent (flag : Byte) (m : String) (args : List Token) : Option (List Instr) :=
  if m = "START" then readPlain args .start
  else if m = "STOP" then readPlain args .stop
  else if m = "CLEAR" then readPlain args .clear
  else if m = "SNAP" then readPlain args .snap
  else if m = "ALIVE" then readPlain args .alive
  else if m = "RXERR" then readPlain args .rxerr
  else if m = "TICK" then readRepeated args .tick
  else if m = "RXDATA" then (readBytes flag args).map fun bs => [.rxdata bs]
  else if m = "RXSTEP" then
    match args with
    | [.word ['w'], .equals, .word c] => (readWaiter c).map fun w => [.rxstep w]
    | _ => readRepeated args (.rxstep none)
  else if m = "TAKE" || m = "TAKEW" then
    match args with
    | [.word c, .comma, .word n] =>
      match readNumber c, readNumber n with
      | some c, some n => some (if m = "TAKE" then [.take c n] else takeToTimeout c n)
      | _, _ => none
    | _ => none
  else if m = "TAKEEND" then
    match args with
    | [.word c] => (readNumber c).map fun c => [.takeend c]
    | _ => none
  else if m = "XMIT" || m = "XMITOK" then
    match args with
    | .word t :: .comma :: p =>
      match readNumber t, readBytes flag p with
      | some t, some p => some (if m = "XMIT" then [.xmit t p] else xmitOk t p)
      | _, _ => none
    | _ => none
  else if m = "TXSTEP" then
    match args with
    | [.word t] => (readNumber t).map fun t => [.txstep t false]
    | [.word t, .comma, .word ['o', 'k']] => (readNumber t).map fun t => [.txstep t true]
    | [.word t, .comma, .word ['f', 'a', 'i', 'l']] => (readNumber t).map fun t => [.txstep t false]
    | _ => none
  else if m = "FEED" then
    match args with
    | [.word b] => (readByteNumber b).map fun b => [.feed b]
    | _ => none
  else if m = "FEEDS" then (readBytes flag args).map feeds
  else if m = "PUB" then
    match args with
    | .word ['w'] :: .equals :: .word c :: .comma :: p =>
      match readWaiter c, readBytes flag p with
      | some w, some p => some [.pub w p]
      | _, _ => none
    | p => (readBytes flag p).map fun p => [.pub none p]
  else none

/-- The events of one line. A blank line, a comment and a response line, which begins with `->`, hold none. -/
def readLine (flag : Byte) (line : List Char) : Option (List Instr) :=
  match tokens line [] with
  | [] => some []
  | .word ('-' :: '>' :: _) :: _ => some []
  | .word m :: args => readEvent flag (String.ofList m) args
  | _ => none

/-- The events of the lines in order; none where a line is no event of rules R85 and R86. -/
def readLines (flag : Byte) : List (List Char) → Option (List Instr)
  | [] => some []
  | l :: ls =>
    match readLine flag l, readLines flag ls with
    | some is, some rest => some (is ++ rest)
    | _, _ => none

/-- The events of a trace text (rule R85). -/
def readTrace (flag : Byte) (text : List Char) : Option (List Instr) := readLines flag (textLines text [])

/-! ### Writing -/

/-- A hexadecimal digit in capitals. -/
def hexDigit (n : Nat) : Char := Char.ofNat (if n < 10 then 48 + n else 55 + n)

/-- A byte as a hex pair. -/
def hexPair (b : Byte) : String := String.ofList [hexDigit (b.toNat / 16), hexDigit (b.toNat % 16)]

/-- A byte sequence in brackets, hex pairs separated by spaces (rule R85). -/
def bytesText (bs : Bytes) : String := "[" ++ String.intercalate " " (bs.map hexPair) ++ "]"

/-- ` w=c` where a waiter is chosen. -/
def waiterText : Option Nat → String
  | none => ""
  | some c => " w=" ++ toString c

/-- The line of an event (rule R85). The word of `TXSTEP t` and `TXSTEP t, fail` is the same (rule R88): `writing` says
whether the caller is in T_WR. -/
def instrText (writing : Bool) : Instr → String
  | .start => "START"
  | .stop => "STOP"
  | .clear => "CLEAR"
  | .snap => "SNAP"
  | .alive => "ALIVE"
  | .rxdata bs => "RXDATA " ++ bytesText bs
  | .rxerr => "RXERR"
  | .rxstep w => "RXSTEP" ++ waiterText w
  | .take c n => "TAKE " ++ toString c ++ ", " ++ toString n
  | .takeend c => "TAKEEND " ++ toString c
  | .tick => "TICK"
  | .xmit t p => "XMIT " ++ toString t ++ ", " ++ bytesText p
  | .txstep t wok =>
    "TXSTEP " ++ toString t ++ (if wok then ", ok" else if writing then ", fail" else "")
  | .feed b => "FEED 0x" ++ hexPair b
  | .pub none p => "PUB " ++ bytesText p
  | .pub (some c) p => "PUB" ++ waiterText (some c) ++ ", " ++ bytesText p

/-- The name of an XMIT_R code (rule R76). -/
def XmitCode.text : XmitCode → String
  | .ok => "OK"
  | .encodeError => "ENCODE_ERROR"
  | .writeError => "WRITE_ERROR"

/-- A response as the line behind its event writes it; a call on CODEC has no line (rule R85). -/
def Response.text : Response → Option String
  | .snapR st => some <| "-> SNAP_R(" ++ String.intercalate "," (st.toList.map toString) ++ ")"
  | .aliveR a => some <| "-> ALIVE_R(" ++ toString (aliveNumber a) ++ ")"
  | .xclose => some <| "-> XCLOSE"
  | .takeR c f len => some <| "-> TAKE_R(" ++ toString c ++ ", " ++ bytesText f ++ ", " ++ toString len ++ ")"
  | .xmitR t code => some <| "-> XMIT_R(" ++ toString t ++ ", " ++ code.text ++ ")"
  | .txbytes t raw => some <| "-> TXBYTES(" ++ toString t ++ ", " ++ bytesText raw ++ ")"
  | .feedR none => some <| "-> FEED_R(None)"
  | .decodeCall _ => none
  | .encodeCall _ => none
  | .feedR (some f) => some <| "-> FEED_R(Some(" ++ bytesText f ++ "))"

end Sys2Proof.Machine
end

