-- ==== Sys2Proof/Tests/Slice0.lean ====
section
/-! SUPPORT. The model's own tests. Expected results are the spec's: the words of rule R88 and of the vectors of
`95_test_vectors.md`, and the example of each operation's rule. Behind them one witness for the hypotheses of each
statement. -/

namespace Sys2Proof.Tests

open Sys2Proof.Machine

/-! ### The fixture of `95_test_vectors.md` -/

/-- `FLAG` of the concrete vectors. -/
def fl : Byte := 0x7E

/-- TC0.encode. -/
def tc0Encode (p : Bytes) : CodecResult :=
  if p = [] ∨ fl ∈ p ∨ p.head? = some 0xFF then .formatError else .ok ([fl] ++ p ++ [fl])

/-- TC0.decode. -/
def tc0Decode (f : Bytes) : CodecResult :=
  if f.length < 3 ∨ f[1]? = some 0xFF then .formatError else .ok (f.drop 1).dropLast

/-- The reset state of a build with two consumers and two callers. -/
def small : State :=
  { State.reset with ib := { slot := none, cons := [.idle, .idle] }, tx := { ctx := [.idle, .idle] } }

/-- `small` in a phase. -/
def inPhase (p : Phase) : State := small.setPhase p

/-- `small` with given consumers. -/
def consumers (slot : Option Bytes) (cons : List Cons) : State := { small with ib := { slot := slot, cons := cons } }

/-- `small` with given callers. -/
def callers (ctx : List TxCtx) : State := { small with tx := { ctx := ctx } }

/-- A field of the next state, if there is one. -/
def fieldOf {α : Type} (f : State → α) : Host.Outcome State Fault Refusal → Option α
  | .next t => some (f t)
  | .fault _ => none
  | .refused _ => none

/-- Whether an outcome is a next state. -/
def goesOn (o : Host.Outcome State Fault Refusal) : Bool := (fieldOf (fun _ => ()) o).isSome

/-- The reason of a refusal. -/
def refusalOf : Host.Outcome State Fault Refusal → Option Refusal
  | .next _ => none
  | .fault _ => none
  | .refused r => some r

/-! ### WellFormed: an ill-formed term for each check -/

/-- Rule R79: a sequence of 2^24 bytes cannot be written. -/
theorem test_wf_too_long (bs : Bytes) (h : bs.length = 16777216) : (Instr.rxdata bs).fits = false ∧
    (Instr.xmit 0 bs).fits = false ∧ (Instr.pub none bs).fits = false := by
  simp only [Instr.fits, h]; decide
theorem test_wf_too_long_exists : ∃ bs : Bytes, bs.length = 16777216 :=
  ⟨List.replicate _ 0, List.length_replicate⟩
theorem test_wf_take_timeout : (Instr.take 0 16777216).fits = false := by decide
theorem test_wf_ids : (Instr.take 16 0).fits = false ∧ (Instr.takeend 16).fits = false ∧
    (Instr.xmit 16 []).fits = false ∧ (Instr.txstep 16 false).fits = false := by decide
theorem test_wf_waiter_fifteen : (Instr.rxstep (some 15)).fits = false ∧ (Instr.pub (some 15) []).fits = false := by
  decide
/-- Vectors VI14 and VX7, with NCONS = NTX = 2. -/
theorem test_wf_contexts : (Instr.take 2 1).wfFor 2 2 = false ∧ (Instr.takeend 2).wfFor 2 2 = false ∧
    (Instr.rxstep (some 2)).wfFor 2 2 = false ∧ (Instr.pub (some 2) []).wfFor 2 2 = false ∧
    (Instr.xmit 2 [1]).wfFor 2 2 = false ∧ (Instr.txstep 2 true).wfFor 2 2 = false := by decide
/-- NCONS is at most 15 in every build, so `id = 15` names no consumer (vectors 2.7). -/
theorem test_wf_take_fifteen : (Instr.take 15 5).wf = false := by
  have h : ¬ 15 < Config.ncons := by
    have := Config.consumersLessOne.isLt
    unfold Config.ncons
    omega
  simp [Instr.wf, Instr.wfFor, Instr.namesContexts, h]
theorem test_wf_accepts : (Instr.take 1 100).wfFor 2 2 = true ∧ (Instr.rxstep none).wf = true := by decide

/-! ### Decode: a word for every constructor, written from rules R78 to R80 -/

theorem test_decode_start : decode [0x10000000] = .ok (.start, []) := by decide
theorem test_decode_stop : decode [0x20000000] = .ok (.stop, []) := by decide
theorem test_decode_clear : decode [0x30000000] = .ok (.clear, []) := by decide
theorem test_decode_snap : decode [0x40000000] = .ok (.snap, []) := by decide
theorem test_decode_alive : decode [0x50000000] = .ok (.alive, []) := by decide
theorem test_decode_rxdata : decode [0x60000002, 0x0000007E, 0x00000001, 0x70000000] =
    .ok (.rxdata [0x7E, 0x01], [0x70000000]) := by decide
theorem test_decode_rxerr : decode [0x70000000] = .ok (.rxerr, []) := by decide
theorem test_decode_rxstep : decode [0x82000000] = .ok (.rxstep (some 2), []) := by decide
theorem test_decode_rxstep_none : decode [0x8F000000] = .ok (.rxstep none, []) := by decide
theorem test_decode_take : decode [0x91000064] = .ok (.take 1 100, []) := by decide
theorem test_decode_takeend : decode [0xA1000000] = .ok (.takeend 1, []) := by decide
theorem test_decode_tick : decode [0xB0000000] = .ok (.tick, []) := by decide
theorem test_decode_xmit : decode [0xC3000002, 0x00000001, 0x000000FF] = .ok (.xmit 3 [0x01, 0xFF], []) := by decide
theorem test_decode_txstep : decode [0xD0000001] = .ok (.txstep 0 true, []) := by decide
theorem test_decode_feed : decode [0xE000007E] = .ok (.feed 0x7E, []) := by decide
theorem test_decode_pub : decode [0xF0000001, 0x000000AA] = .ok (.pub (some 0) [0xAA], []) := by decide
theorem test_decode_pub_empty : decode [0xFF000000] = .ok (.pub none [], []) := by decide

/-- The reserved words of the vectors 2.7. -/
theorem test_decode_reserved :
    decode [0x00000000] = .error .opcode ∧ decode [0x0000007E] = .error .opcode ∧
    decode [0x10000001] = .error .nonzeroField ∧ decode [0x21000000] = .error .nonzeroField ∧
    decode [0x8F000001] = .error .nonzeroField ∧ decode [0xE0000100] = .error .nonzeroField ∧
    decode [0xE100007E] = .error .nonzeroField ∧ decode [0xD0000002] = .error .nonzeroField ∧
    decode [0x60000002, 0x0000017E, 0x00000001] = .error .payloadHighBits ∧
    decode [0x61000000] = .error .nonzeroField := by decide
theorem test_decode_truncated : decode [0x60000002, 0x0000007E] = .error .truncated := by decide
theorem test_decode_table_word : decodeTableWord 64 0x7E60000001 = some (.rxdata [0x7E]) := by decide
theorem test_decode_table_zeros : decodeTableWord 32 0x60000002 = some (.rxdata [0, 0]) := by decide
theorem test_fetch_word : goesOn (step (State.reset.withFetchWord 32 0x90000003)) = true := by decide

/-! ### One step of each operation, after the examples of its rule -/

/-- VS4 and VS6. -/
theorem test_feed_shared_delimiter : Sync.feedAll fl Sync.reset [0x7E, 0x01, 0x7E, 0x02, 0x7E] =
    ({ state := .idle, prev := some 0x7E, buf := [] }, [[0x7E, 0x01, 0x7E]]) := by decide
/-- VS16: another delimiter. -/
theorem test_feed_other_flag : Sync.feedAll 0x00 Sync.reset [0x00, 0x7E, 0x00] =
    ({ state := .idle, prev := none, buf := [] }, [[0x00, 0x7E, 0x00]]) := by decide
theorem test_feed_event : fieldOf State.out (feedEvent fl 0x01 small) = some [.feedR none] := by decide
theorem test_feed_refused : refusalOf (feedEvent fl 0x01 (inPhase .top)) = some .phaseNotOff := by decide
theorem test_start : fieldOf (fun t => t.rx.phase) (exec .start small) = some .top := by decide
theorem test_start_twice : refusalOf (exec .start (inPhase .top)) = some .phaseNotOff := by decide
theorem test_stop : fieldOf (fun t => (t.stop, t.rx.phase)) (exec .stop (inPhase .feeding)) =
    some (true, .feeding) := by decide
theorem test_alive_exited : fieldOf State.out (exec .alive (inPhase .exited)) = some [.aliveR false] := by decide
theorem test_alive_top : fieldOf State.out (exec .alive (inPhase .top)) = some [.aliveR true] := by decide
theorem test_clear : fieldOf State.st (exec .clear
    { small with st := { txTotal := 2, txGood := 1, txBad := 1, rxTotal := 5, rxGood := 4, rxBad := 1 } }) =
    some Stats.zero := by decide
theorem test_snap : fieldOf (fun t => t.out.filterMap Response.text) (exec .snap
    { small with st := { txTotal := 0, txGood := 0, txBad := 0, rxTotal := 1, rxGood := 1, rxBad := 0 } }) =
    some ["-> SNAP_R(0,0,0,1,1,0)"] := by decide
theorem test_rxdata : fieldOf State.rx (exec (.rxdata [0x7E, 0x01]) (inPhase .poll)) =
    some { phase := .feeding, chunk := [0x7E, 0x01], raw := none, pay := none } := by decide
/-- VR6. -/
theorem test_rxdata_empty : fieldOf State.rx (exec (.rxdata []) (inPhase .poll)) =
    some { phase := .top, chunk := [], raw := none, pay := none } := by decide
/-- VR5. -/
theorem test_rxerr : fieldOf (fun t => (t.stop, t.rx.phase, t.out)) (exec .rxerr (inPhase .poll)) =
    some (true, .exited, [.xclose]) := by decide
/-- The example of rule R124: a closing byte. -/
theorem test_rxstep_feeding : fieldOf (fun t => (t.rx, t.st.rxTotal)) (rxstepEvent fl tc0Decode none
    { inPhase .feeding with
      rx := { phase := .feeding, chunk := [0x7E], raw := none, pay := none }
      sy := { state := .receiving, prev := some 0x02, buf := [0x7E, 0x01, 0x02] } }) =
    some ({ phase := .decoding, chunk := [], raw := some [0x7E, 0x01, 0x02, 0x7E], pay := none }, 1) := by decide
/-- The example of rule R125 and vector VR2: a frame that decodes and one that does not. -/
theorem test_rxstep_decoding :
    fieldOf (fun t => (t.rx, t.st.rxGood, t.out)) (rxstepEvent fl tc0Decode none { small with
      rx := { phase := .decoding, chunk := [], raw := some [0x7E, 0x01, 0x02, 0x7E], pay := none } }) =
      some ({ phase := .publishing, chunk := [], raw := none, pay := some [0x01, 0x02] }, 1,
        [.decodeCall [0x7E, 0x01, 0x02, 0x7E]]) ∧
    fieldOf (fun t => (t.rx, t.st.rxBad, t.ib.slot)) (rxstepEvent fl tc0Decode none { small with
      rx := { phase := .decoding, chunk := [], raw := some [0x7E, 0xFF, 0x02, 0x7E], pay := none } }) =
      some ({ phase := .top, chunk := [], raw := none, pay := none }, 1, none) := by decide
theorem test_take : fieldOf (fun t => t.ib.cons) (exec (.take 0 3) small) = some [.wait 3, .idle] := by decide
theorem test_take_busy : refusalOf (exec (.take 0 1) (consumers none [.notified, .idle])) = some (.consumerBusy 0) := by
  decide
/-- The example of rule R144: the second consumer's slot in the list is left alone. -/
theorem test_takeend : fieldOf (fun t => (t.ib, t.out))
    (exec (.takeend 0) (consumers (some [0x01, 0x02]) [.notified, .wait 5])) =
    some ({ slot := none, cons := [.idle, .wait 5] }, [.takeR 0 [0x01, 0x02] 2]) := by decide
/-- VI9 and VI8: a frame of no bytes is not no frame. -/
theorem test_takeend_empty_frame :
    fieldOf State.out (exec (.takeend 0) (consumers (some []) [.wait 0])) = some [.takeR 0 [] 0] ∧
    fieldOf State.out (exec (.takeend 0) (consumers none [.wait 0])) = some [.takeR 0 [] (-1)] := by decide
/-- The example of rule R143. -/
theorem test_tick : fieldOf (fun t => t.ib.cons) (exec .tick (consumers none [.wait 1, .notified, .wait 0, .idle])) =
    some [.wait 0, .notified, .wait 0, .idle] := by decide
/-- The example of rule R140. -/
theorem test_pub : fieldOf State.ib (exec (.pub (some 0) [0xBB]) (consumers (some [0xAA]) [.wait 5, .wait 5])) =
    some { slot := some [0xBB], cons := [.notified, .wait 5] } := by decide
/-- VI14. -/
theorem test_pub_choice :
    refusalOf (exec (.pub (some 0) [0xAA]) small) = some (.waiterChoice (some 0)) ∧
    refusalOf (exec (.pub none [0xAA]) (consumers none [.wait 1])) = some (.waiterChoice none) := by decide
theorem test_xmit : fieldOf (fun t => (t.tx.ctx, t.st.txTotal)) (exec (.xmit 0 [0x01, 0x02]) small) =
    some ([.enc [0x01, 0x02], .idle], 1) := by decide
/-- VX2 and VX4: an encode that fails, and one that overlaps another write. -/
theorem test_txstep_encode :
    fieldOf (fun t => (t.tx.ctx, t.st.txBad, t.out)) (txstepEvent tc0Encode 0 false (callers [.enc [0xFF]])) =
      some ([.idle], 1, [.encodeCall [0xFF], .xmitR 0 .encodeError]) ∧
    fieldOf (fun t => (t.tx.ctx, t.txOverlap, t.line))
      (txstepEvent tc0Encode 1 false (callers [.wr [0x7E, 0x01, 0x7E], .enc [0x02]])) =
      some ([.wr [0x7E, 0x01, 0x7E], .wr [0x7E, 0x02, 0x7E]], true, none) := by decide
/-- VX1 and VX3: a write that succeeds and one that fails. -/
theorem test_txstep_write :
    fieldOf (fun t => (t.tx.ctx, t.st.txGood, t.out, t.line))
      (txstepEvent tc0Encode 0 true (callers [.wr [0x7E, 0x01, 0x7E]])) =
      some ([.idle], 1, [.txbytes 0 [0x7E, 0x01, 0x7E], .xmitR 0 .ok], some [0x7E, 0x01, 0x7E]) ∧
    fieldOf (fun t => (t.tx.ctx, t.st.txBad, t.out))
      (txstepEvent tc0Encode 0 false (callers [.wr [0x7E, 0x01, 0x7E]])) =
      some ([.idle], 1, [.xmitR 0 .writeError]) := by decide

/-! ### Response fields and the text form -/

/-- Rule R76 and decision D13. -/
theorem test_response_numbers : XmitCode.ok.number = 0 ∧ XmitCode.encodeError.number = 1 ∧
    XmitCode.writeError.number = 2 ∧ lenField 8 (-1) = 0xFF ∧ lenField 8 2 = 2 := by decide
/-- Rule R87 rounds up. -/
theorem test_timeout_ticks : timeoutTicks 30 100 = 4 ∧ timeoutTicks 25 100 = 4 := by decide
/-- Rules R85 and R86. -/
theorem test_read_trace :
    readTrace fl "START\nRXSTEP*2  # go\n  -> XCLOSE\nTAKEW 0, 1\nPUB w=0, [AA FL]\nTXSTEP 1, ok".toList =
      some [.start, .rxstep none, .rxstep none, .take 0 1, .tick, .takeend 0, .pub (some 0) [0xAA, 0x7E],
        .txstep 1 true] := by decide
theorem test_read_trace_bad : readTrace fl "RXDATA [7]".toList = none := by decide

/-! ### Witnesses: each statement's hypotheses are met -/

/-- The events of some words in `small`. -/
def withWords (ws : List Word) : State := { small with trace := ws }

theorem test_witness_fits : (Instr.take 15 16777215).fits = true ∧ (Instr.rxstep (some 14)).fits = true ∧
    (Instr.pub none [0x7E]).fits = true := by decide
theorem test_witness_decode_ok : decode (0x60000001 :: [0x7E]) = .ok (.rxdata [0x7E], []) ∧
    decode (0xB0000000 :: [0x7E]) = .ok (.tick, [0x7E]) := by decide
theorem test_witness_step : decode (withWords [0x20000000]).trace = .ok (.stop, []) := by decide
theorem test_witness_reserved :
    opField 0x00000001 = 0 ∧ (opField 0x10000001 ∈ [0x1, 0x2, 0x3, 0x4, 0x5, 0x7, 0xB] ∧ argField 0x10000001 ≠ 0) ∧
    (opField 0x61000000 = 0x6 ∧ idField 0x61000000 ≠ 0) ∧
    (opField 0x8F000001 ∈ [0x8, 0xA] ∧ argField 0x8F000001 ≠ 0) ∧
    (opField 0xD0000002 = 0xD ∧ bits 23 1 0xD0000002 ≠ 0) ∧
    (opField 0xE0000100 = 0xE ∧ bits 23 8 0xE0000100 ≠ 0) ∧
    (opField 0x60000001 ∈ [0x6, 0xC, 0xF] ∧
      ∃ w ∈ [(0x17E : Word)].take (argField 0x60000001), bits 31 8 w ≠ 0) ∧
    small.ib.cons.length ≤ 2 ∧ small.tx.ctx.length ≤ 2 :=
  ⟨by decide, by decide, by decide, by decide, by decide, by decide,
    ⟨by decide, 0x17E, by decide, by decide⟩, by decide, by decide⟩
/-- The other kinds of reserved event: a waiter is not named, a consumer that does not wait is named, in PUBLISHING and
outside it, and a verdict comes before the write. -/
theorem test_witness_reserved_choices :
    (∃ c k : Nat, (consumers none [.wait 1]).ib.cons[c]? = some (Cons.wait k)) ∧
    (∀ k : Nat, (consumers none [.notified]).ib.cons[0]? ≠ some (Cons.wait k)) ∧
    (inPhase .publishing).rx.phase = .publishing ∧
    (∀ k : Nat, (inPhase .publishing).ib.cons[2]? ≠ some (Cons.wait k)) ∧
    (inPhase .poll).rx.phase ≠ .publishing ∧ (callers [.enc []]).tx.ctx[0]? = some (TxCtx.enc []) :=
  ⟨⟨0, 1, rfl⟩, nofun, rfl, nofun, nofun, rfl⟩
/-- A publish by PUB, one by RXSTEP and a TAKEEND have a next state. -/
theorem test_witness_slot : goesOn (exec (.pub none [0xAA]) small) = true ∧
    goesOn (exec (.rxstep none) ((inPhase .publishing).setPay (some [0xAA]))) = true ∧
    goesOn (exec (.takeend 0) (consumers none [.notified])) = true := by decide
theorem test_witness_feed_cases :
    (∃ sy : Sync, sy.state = .idle ∧ sy.prev = some fl ∧ (0x01 : Byte) ≠ fl) ∧
    (∃ sy : Sync, sy.state = .receiving ∧ (0x01 : Byte) ≠ fl) ∧
    (∃ sy : Sync, sy.state = .receiving ∧ (0x7E : Byte) = fl) ∧
    (∃ sy : Sync, sy.state = .idle ∧ ((0x01 : Byte) = fl ∨ sy.prev ≠ some fl)) :=
  ⟨⟨{ Sync.reset with prev := some fl }, by decide⟩, ⟨{ Sync.reset with state := .receiving }, by decide⟩,
    ⟨{ Sync.reset with state := .receiving }, by decide⟩, ⟨Sync.reset, by decide⟩⟩
/-- A chunk of one delimiter is fed to its end, and the poll of a second chunk follows. -/
theorem test_witness_chunks : ∃ u v : State,
    runInstrs (.rxdata [Config.flag] :: [.rxstep none, .tick]) (inPhase .poll) = some u ∧ u.rx.phase = .top ∧
    runInstrs [.rxstep none, .rxdata [Config.flag]] u = some v := ⟨_, _, rfl, rfl, rfl⟩
/-- PUB in OFF and RXSTEP in PUBLISHING, each naming the one waiter. -/
theorem test_witness_chosen : goesOn (exec (.pub (some 0) []) (consumers none [.wait 0])) = true ∧
    goesOn (exec (.rxstep (some 0)) { (inPhase .publishing).setPay (some []) with
      ib := { slot := none, cons := [.wait 0] } }) = true := by decide
theorem test_witness_phases : small.rx.phase = .off ∧ (inPhase .top).rx.phase = .top ∧
    (inPhase .poll).rx.phase = .poll ∧ (inPhase .exited).rx.phase = .exited ∧ (inPhase .top).rx.phase ≠ .off ∧
    (inPhase .top).rx.phase ≠ .poll ∧ (inPhase .top).stop = false ∧ (inPhase .top).setStop.stop = true := by decide
/-- A SYNC that is assembling a frame meets the invariant, whatever the delimiter is. -/
theorem test_witness_sync_inv : SyncInv Config.flag
    { state := .receiving, prev := some (Config.flag + 1), buf := [Config.flag, Config.flag + 1] } := by
  simp [SyncInv]
theorem test_witness_sync_step : SyncInv Config.flag (withWords [0x20000000]).sy ∧
    FramesInv Config.flag (withWords [0x20000000]) ∧ goesOn (step (withWords [0x20000000])) = true :=
  ⟨by simp [SyncInv, withWords, small, State.reset, Sync.reset],
    by simp [FramesInv, withWords, small, State.reset, Rxseq.reset], by decide⟩
theorem test_witness_emitted : [0x7E, 0x01, 0x7E] ∈ (Sync.reset.feedAll fl [0x7E, 0x01, 0x7E]).2 := by decide
theorem test_witness_frames : fl ∉ ([0x01] : Bytes) ∧ ([0x01] : Bytes) ≠ [] ∧ 1 ≤ 1 := by decide
theorem test_witness_group : (StreamGroup.mk [0x55] 2 [0x01]).proper fl ∧ (StreamGroup.mk [] 0 [0x01]).proper fl ∧
    (StreamTail.mk [0x55] 1 [0x01]).proper fl ∧ (StreamTail.mk [] 0 []).proper fl := by simp [StreamGroup.proper, StreamTail.proper, fl]
theorem test_witness_feeding : ∃ s : State, s.rx.phase = .feeding ∧ s.rx.chunk = 0x7E :: [] :=
  ⟨(inPhase .feeding).setChunk [0x7E], by decide⟩
theorem test_witness_decoding : ∃ s : State, s.rx.phase = .decoding ∧ s.rx.raw = some [0x7E, 0x01, 0x7E] :=
  ⟨(inPhase .decoding).setRaw (some [0x7E, 0x01, 0x7E]), by decide⟩
theorem test_witness_publishing_alone :
    ∃ s : State, s.rx.phase = .publishing ∧ s.rx.pay = some [] ∧ ∀ c k : Nat, s.ib.cons[c]? ≠ some (Cons.wait k) :=
  ⟨{ (inPhase .publishing).setPay (some []) with ib := { slot := none, cons := [] } }, rfl, rfl, by simp⟩
theorem test_witness_publishing_waiter :
    ∃ s : State, s.rx.phase = .publishing ∧ s.rx.pay = some [] ∧ s.ib.cons[1]? = some (Cons.wait 0) :=
  ⟨{ (inPhase .publishing).setPay (some []) with ib := { slot := none, cons := [.idle, .wait 0] } }, by decide⟩
theorem test_witness_off_waiter : (consumers none [.wait 0]).rx.phase = .off ∧
    (consumers none [.wait 0]).ib.cons[0]? = some (Cons.wait 0) := by decide
theorem test_witness_off_no_waiter : (consumers none []).rx.phase = .off ∧
    ∀ c k : Nat, (consumers none []).ib.cons[c]? ≠ some (Cons.wait k) := ⟨rfl, by simp [consumers]⟩
/-- Every statement over a label's next state has one. -/
theorem test_witness_exec : goesOn (exec .stop small) = true ∧ goesOn (exec .tick small) = true ∧
    goesOn (exec (.take 0 1) small) = true ∧ goesOn (exec (.xmit 0 []) small) = true ∧
    goesOn (exec (.rxdata []) (inPhase .poll)) = true ∧ goesOn (exec (.rxstep none) (inPhase .top)) = true := by decide
theorem test_witness_exit : goesOn (exec .stop (inPhase .exited)) = true := by decide
theorem test_witness_rx_inv : RxInv (withWords [0x20000000]).rx := by
  simp [RxInv, withWords, small, State.reset, Rxseq.reset]
theorem test_witness_whole_frame :
    (inPhase .poll).rx.phase = .poll ∧ (inPhase .poll).sy.state = .idle ∧ [Config.flag + 1] ≠ [] ∧
    Config.flag ∉ [Config.flag + 1] := by
  exact ⟨rfl, rfl, by simp, by simp⟩
theorem test_witness_consumers : small.ib.cons[1]? = some Cons.idle ∧
    (consumers none [.notified]).ib.cons[0]? = some Cons.notified ∧
    (consumers none [.wait 0]).ib.cons[0]? = some (Cons.wait 0) ∧
    (consumers (some []) [.wait 1]).ib.cons[0]? = some (Cons.wait (0 + 1)) ∧
    (consumers (some []) [.wait 1]).ib.slot = some [] ∧ (consumers none [.wait 0]).ib.slot = none ∧
    goesOn (exec .tick (consumers none [.wait 1])) = true := by decide
/-- Rule R148's premises: two publishes, a label between them and behind them, and a take that ends. -/
theorem test_witness_overwrite : ∃ s₁ s₂ s₃ s₄ s₅ s₆ : State,
    publishes (.pub none [0xAA]) s₁ = some [0xAA] ∧ exec (.pub none [0xAA]) s₁ = .next s₂ ∧ QuietRun s₂ s₃ ∧
    publishes (.pub none [0xBB]) s₃ = some [0xBB] ∧ exec (.pub none [0xBB]) s₃ = .next s₄ ∧ QuietRun s₄ s₅ ∧
    exec (.takeend 0) s₅ = .next s₆ :=
  ⟨small, _, _, _, _, _, rfl, rfl, .step .stop _ _ _ rfl (by simp) rfl (.here _), rfl, rfl,
    .step (.take 0 0) _ _ _ rfl (by simp) rfl (.here _), rfl⟩
theorem test_witness_callers : (callers [.idle]).tx.ctx[0]? = some TxCtx.idle ∧
    (callers [.enc [], .wr []]).tx.ctx[0]? = some (TxCtx.enc []) ∧
    (callers [.enc [], .wr []]).tx.ctx[1]? = some (TxCtx.wr []) ∧ (callers [.wr []]).txOverlap = false ∧
    OverlapInv small :=
  ⟨by decide, by decide, by decide, by decide, fun _ => by decide⟩
theorem test_witness_alone : ∀ (u : Nat) (r : Bytes), u ≠ 0 → (callers [.enc []]).tx.ctx[u]? ≠ some (TxCtx.wr r) := by
  intro u r hu
  cases u with
  | zero => exact absurd rfl hu
  | succ u => simp [callers]
theorem test_witness_balanced : CountersBalanced (withWords [0x30000000]) ∧
    decode (withWords [0x30000000]).trace = .ok (.clear, []) ∧
    (framesInFlight (withWords [0x30000000]) = 0 ∧ transmitsInFlight (withWords [0x30000000]) = 0) ∧
    goesOn (step (withWords [0x30000000])) = true := by
  refine ⟨⟨by decide, by decide⟩, by decide, by decide, by decide⟩
theorem test_witness_run : Instr.clear ∉ [Instr.stop, Instr.tick] ∧
    (runInstrs [.stop, .tick] small).isSome = true := by decide
theorem test_witness_line : LineInv (withWords [0x20000000]) ∧ goesOn (step (withWords [0x20000000])) = true := by
  refine ⟨⟨fun _ _ => rfl, nofun⟩, by decide⟩
/-- A state after an overlap: the mark is set, there is no line, and the invariant holds. -/
theorem test_witness_line_overlap : LineInv { small with txOverlap := true, line := none } ∧
    goesOn (exec .stop { small with txOverlap := true, line := none }) = true ∧ small.txOverlap = false :=
  ⟨⟨nofun, fun _ => rfl⟩, by decide, by decide⟩

end Sys2Proof.Tests
end

/-! PROOFS. The scope of the model: the laws of its open parameters, the step against `exec`, and the responses that a
label adds. -/

namespace Sys2Proof.Config

/-- The law of rule R7 for the model's own pair of codec functions. -/
theorem codecLaw_encode_decode : CodecLaw encode decode := Laws.lawful_obeys_law rawEncode decode

theorem one_le_ncons : 1 ≤ ncons := Nat.le_add_left 1 _

theorem ncons_le : ncons ≤ 15 := consumersLessOne.isLt

theorem ntx_le : ntx ≤ 16 := Nat.le_of_lt_succ transmitCallers.isLt

end Sys2Proof.Config

namespace Sys2Proof.Machine

variable {i : Instr} {s t : State}

theorem step_of_decode_ok {rest : List Word} (h : decode s.trace = .ok (i, rest)) :
    step s = exec i { s with trace := rest } := by
  simp only [step, h]

/-! ### What every effect keeps -/

theorem Effect.cons_length (h : Effect i s t) : t.ib.cons.length = s.ib.cons.length := by
  cases h with
  | take | takeFrame | takeNothing => exact List.length_set
  | publishing | pub => exact notify_length _ _
  | tick => exact List.length_map _
  | _ => rfl

theorem Effect.ctx_length (h : Effect i s t) : t.tx.ctx.length = s.tx.ctx.length := by
  cases h with
  | xmit | encodeFails | encodeAlone | encodeOverlap | writeOk | writeFails => exact List.length_set
  | _ => rfl

theorem Effect.trace_eq (h : Effect i s t) : t.trace = s.trace := by
  cases h <;> rfl

/-! ### The responses that an effect adds -/

/-- Rule R13: in state `s` the label `i` may give the response `r`, on its own interface or as one of the four records
and calls that it makes elsewhere. -/
def MayRespond (i : Instr) (s : State) (r : Response) : Prop :=
  r.interface = Instr.interface i ∨ (r = .xclose ∧ i = .rxstep none) ∨
  (∃ c raw, r = .txbytes c raw ∧ i = .txstep c true) ∨
  (∃ f, r = .decodeCall f ∧ i = .rxstep none ∧ s.rx.raw = some f) ∨
  (∃ c p, r = .encodeCall p ∧ i = .txstep c false ∧ s.tx.ctx[c]? = some (.enc p))

theorem mayRespond_of_interface {r : Response} (h : r.interface = i.interface) : MayRespond i s r := .inl h

theorem mayRespond_xclose : MayRespond (.rxstep none) s .xclose := .inr (.inl ⟨rfl, rfl⟩)

theorem mayRespond_txbytes (c : Nat) (raw : Bytes) : MayRespond (.txstep c true) s (.txbytes c raw) :=
  .inr (.inr (.inl ⟨c, raw, rfl, rfl⟩))

theorem mayRespond_decodeCall {f : Bytes} (h : s.rx.raw = some f) : MayRespond (.rxstep none) s (.decodeCall f) :=
  .inr (.inr (.inr (.inl ⟨f, rfl, rfl, h⟩)))

theorem mayRespond_encodeCall {c : Nat} {p : Bytes} (h : s.tx.ctx[c]? = some (.enc p)) :
    MayRespond (.txstep c false) s (.encodeCall p) :=
  .inr (.inr (.inr (.inr ⟨c, p, rfl, rfl, h⟩)))

/-- From `s` to `t` the responses grow at the end, by such as the label `i` may give. -/
def AddsResponses (i : Instr) (s t : State) : Prop := ∃ rs, t.out = s.out ++ rs ∧ ∀ r ∈ rs, MayRespond i s r

theorem addsResponses_none (h : t.out = s.out) : AddsResponses i s t :=
  ⟨[], by rw [h, List.append_nil], List.forall_mem_nil _⟩

theorem addsResponses_one {r : Response} (h : t.out = s.out ++ [r]) (hr : MayRespond i s r) : AddsResponses i s t :=
  ⟨[r], h, List.forall_mem_singleton.2 hr⟩

theorem addsResponses_two {r q : Response} (h : t.out = s.out ++ [r, q]) (hr : MayRespond i s r)
    (hq : MayRespond i s q) : AddsResponses i s t :=
  ⟨[r, q], h, List.forall_mem_cons.2 ⟨hr, List.forall_mem_singleton.2 hq⟩⟩

theorem Effect.addsResponses (h : Effect i s t) : AddsResponses i s t := by
  cases h with
  | snap | alive | rxerr | takeFrame | takeNothing | feed | writeFails =>
    exact addsResponses_one rfl (mayRespond_of_interface rfl)
  | topStop => exact addsResponses_one rfl mayRespond_xclose
  | decodeOk _ _ _ _ hf | decodeFails _ _ _ hf => exact addsResponses_one rfl (mayRespond_decodeCall hf)
  | encodeAlone _ _ _ _ hc | encodeOverlap _ _ _ _ hc => exact addsResponses_one rfl (mayRespond_encodeCall hc)
  | encodeFails _ _ _ hc =>
    exact addsResponses_two rfl (mayRespond_encodeCall hc) (mayRespond_of_interface rfl)
  | writeOk => exact addsResponses_two rfl (mayRespond_txbytes _ _) (mayRespond_of_interface rfl)
  | start | stop | clear | rxdataEmpty | rxdata | topGo | feedOpen | feedClosed | publishing | take | tick | xmit
  | pub => exact addsResponses_none rfl

end Sys2Proof.Machine

namespace Sys2Proof.Proofs

open Sys2Proof.Machine

/-- Settles O60: each clause is a property of every effect, and `exec_effect` gives the label's effect. -/
theorem responsesOnlyGrowOnTheirInterfaces : Obligations.ResponsesOnlyGrowOnTheirInterfaces := by
  intro i s t h
  have heff : Effect i s t := exec_effect h
  exact ⟨heff.cons_length, heff.ctx_length, heff.trace_eq, heff.addsResponses⟩

/-- Settles O5: the decoded trace picks the branch of `step` that performs the label. -/
theorem stepPerformsTheDecodedLabel : Obligations.StepPerformsTheDecodedLabel :=
  fun _ _ _ h => step_of_decode_ok h

/-- Settles O7: the law is that of `lawful`, and the ranges are those of the `Fin` behind each count. -/
theorem parametersObeyTheirLaws : Obligations.ParametersObeyTheirLaws :=
  ⟨Config.codecLaw_encode_decode, Config.one_le_ncons, Config.ncons_le, Config.ntx_le⟩

end Sys2Proof.Proofs

/-! PROOFS. The state: the invariants of rules R24, R27, R28, R34 and R36, at reset and over every step, and who writes
`sy.*`, the slot, the counters and `mark.tx_overlap`. -/

namespace Sys2Proof.Machine

variable {i : Instr} {s t : State}

/-! ### A step is a label's effect on the state with the label's words read -/

/-- The inversion of `step` where it answers a next state. -/
theorem step_next (h : step s = .next t) :
    ∃ i rest, decode s.trace = .ok (i, rest) ∧ Effect i { s with trace := rest } t := by
  cases hd : decode s.trace with
  | error e => rw [step, hd] at h; cases h
  | ok r => exact ⟨r.1, r.2, rfl, exec_effect (step_of_decode_ok hd ▸ h)⟩

/-- The inversion of `step` where it faults. -/
theorem step_fault {f : Fault} (h : step s = .fault f) : ∃ i rest, exec i { s with trace := rest } = .fault f := by
  cases hd : decode s.trace with
  | error e => rw [step, hd] at h; cases h
  | ok r => exact ⟨r.1, r.2, step_of_decode_ok hd ▸ h⟩

/-! ### The synchronizer invariant and the shape of raw frames -/

theorem syncInv_idle (flag : Byte) (prev : Option Byte) : SyncInv flag { state := .idle, prev := prev, buf := [] } :=
  ⟨nofun, fun _ => rfl⟩

/-- Rule R24 (a), with the data bytes behind the delimiter named. -/
theorem syncInv_receiving {flag : Byte} {d : Bytes} (hne : d ≠ []) (hd : flag ∉ d) :
    SyncInv flag { state := .receiving, prev := d.getLast?, buf := flag :: d } := by
  obtain ⟨b, bs, rfl⟩ := List.exists_cons_of_ne_nil hne
  exact ⟨fun _ => ⟨Nat.le_add_left 2 _, rfl, hd, List.getLast?_cons_cons.symm⟩, nofun⟩

theorem SyncInv.buf_of_receiving {flag : Byte} {sy : Sync} (h : SyncInv flag sy) (hs : sy.state = .receiving) :
    ∃ d, sy.buf = flag :: d ∧ d ≠ [] ∧ flag ∉ d := by
  obtain ⟨hlen, hhead, htail, -⟩ := h.1 hs
  obtain ⟨d, hd⟩ := List.head?_eq_some_iff.1 hhead
  rw [hd] at hlen htail
  exact ⟨d, hd, List.ne_nil_of_length_pos (Nat.lt_of_succ_lt_succ hlen), htail⟩

/-- A feed keeps the synchronizer invariant, and the frame it emits has the shape of rule R71. -/
theorem SyncInv.feed {flag b : Byte} {sy sy' : Sync} {o : Option Bytes} (h : SyncInv flag sy)
    (hf : sy.feed flag b = (sy', o)) : SyncInv flag sy' ∧ ∀ f, o = some f → RawFrame flag f := by
  obtain ⟨-, -, hb, he⟩ | ⟨hs, hb, he⟩ | ⟨hs, -, he⟩ | ⟨hs, -, he⟩ := feed_cases flag b sy <;>
    obtain ⟨rfl, rfl⟩ := Prod.mk.inj (he.symm.trans hf)
  · exact ⟨syncInv_receiving (List.cons_ne_nil b []) (by simpa using Ne.symm hb), nofun⟩
  · obtain ⟨d, hbuf, -, hd⟩ := h.buf_of_receiving hs
    have hinv : SyncInv flag { state := .receiving, prev := (d ++ [b]).getLast?, buf := flag :: (d ++ [b]) } :=
      syncInv_receiving (by simp) (by simp [hd, Ne.symm hb])
    rw [hbuf]
    exact ⟨by simpa using hinv, nofun⟩
  · obtain ⟨d, hbuf, hne, hd⟩ := h.buf_of_receiving hs
    exact ⟨syncInv_idle flag none, fun f hemit => ⟨d, hne, hd, by rw [← Option.some.inj hemit, hbuf]; rfl⟩⟩
  · rw [h.2 hs]
    exact ⟨syncInv_idle flag (some b), nofun⟩

theorem Effect.syncInv (h : Effect i s t) (hs : SyncInv Config.flag s.sy) : SyncInv Config.flag t.sy := by
  cases h with
  | feedOpen _ _ _ _ _ _ hf | feedClosed _ _ _ _ _ _ _ hf => exact (hs.feed hf).1
  | feed => exact (hs.feed rfl).1
  | _ => exact hs

/-- The raw frame held for `decode` is the one held before, or one that SYNC has just emitted. -/
theorem Effect.raw_rawFrame (h : Effect i s t) (hs : SyncInv Config.flag s.sy)
    (hraw : ∀ f, s.rx.raw = some f → RawFrame Config.flag f) : ∀ f, t.rx.raw = some f → RawFrame Config.flag f := by
  cases h with
  | feedClosed _ _ _ _ _ _ _ hf => exact (hs.feed hf).2
  | decodeOk | decodeFails => exact nofun
  | _ => exact hraw

/-- A frame responded by FEED was responded before, or is the one that SYNC has just emitted. -/
theorem Effect.feedR_mem (h : Effect i s t) {f : Bytes} (hf : Response.feedR (some f) ∈ t.out) :
    Response.feedR (some f) ∈ s.out ∨ ∃ b, (s.sy.feed Config.flag b).2 = some f := by
  cases h with
  | feed _ b =>
    rcases List.mem_append.1 hf with hold | hnew
    · exact .inl hold
    · exact .inr ⟨b, (Response.feedR.inj (List.mem_singleton.1 hnew)).symm⟩
  | _ => exact .inl (by simpa using hf)

theorem Effect.framesInv (h : Effect i s t) (hs : SyncInv Config.flag s.sy) (hfr : FramesInv Config.flag s) :
    FramesInv Config.flag t := by
  refine ⟨h.raw_rawFrame hs hfr.1, fun f hf => ?_⟩
  rcases h.feedR_mem hf with hold | ⟨b, hb⟩
  · exact hfr.2 f hold
  · exact (hs.feed rfl).2 f hb

/-! ### Which phase holds which data -/

/-- The phases in which the loop holds no byte of a chunk (rule R27). -/
def Phase.HoldsNothing (p : Phase) : Prop := p = .off ∨ p = .top ∨ p = .poll ∨ p = .exited

theorem Phase.holdsNothing_off : Phase.off.HoldsNothing := .inl rfl

theorem Phase.holdsNothing_top : Phase.top.HoldsNothing := .inr (.inl rfl)

theorem Phase.holdsNothing_poll : Phase.poll.HoldsNothing := .inr (.inr (.inl rfl))

theorem Phase.holdsNothing_exited : Phase.exited.HoldsNothing := .inr (.inr (.inr rfl))

theorem Phase.HoldsNothing.ne_decoding {p : Phase} (h : p.HoldsNothing) : p ≠ .decoding := by
  rcases h with rfl | rfl | rfl | rfl <;> exact nofun

theorem Phase.HoldsNothing.ne_publishing {p : Phase} (h : p.HoldsNothing) : p ≠ .publishing := by
  rcases h with rfl | rfl | rfl | rfl <;> exact nofun

theorem rxInv_holdsNothing {p : Phase} (hp : p.HoldsNothing) :
    RxInv { phase := p, chunk := [], raw := none, pay := none } := by
  rcases hp with rfl | rfl | rfl | rfl <;> simp [RxInv]

theorem rxInv_feeding {chunk : Bytes} (h : chunk ≠ []) :
    RxInv { phase := .feeding, chunk := chunk, raw := none, pay := none } := by
  simp [RxInv, h]

theorem rxInv_decoding (chunk f : Bytes) :
    RxInv { phase := .decoding, chunk := chunk, raw := some f, pay := none } := by
  simp [RxInv]

theorem rxInv_publishing (chunk p : Bytes) :
    RxInv { phase := .publishing, chunk := chunk, raw := none, pay := some p } := by
  simp [RxInv]

/-- NEXT of rule R120 is the phase that fits what is left of the chunk. -/
theorem rxInv_phaseAfterFrame (chunk : Bytes) :
    RxInv { phase := phaseAfterFrame chunk, chunk := chunk, raw := none, pay := none } := by
  cases chunk with
  | nil => exact rxInv_holdsNothing Phase.holdsNothing_top
  | cons b bs => exact rxInv_feeding (List.cons_ne_nil b bs)

theorem RxInv.raw_eq_none {rx : Rxseq} (h : RxInv rx) (hp : rx.phase ≠ .decoding) : rx.raw = none := by
  obtain ⟨-, -, hraw, -⟩ := h
  exact not_not.1 (mt hraw.1 hp)

theorem RxInv.pay_eq_none {rx : Rxseq} (h : RxInv rx) (hp : rx.phase ≠ .publishing) : rx.pay = none := by
  obtain ⟨-, -, -, hpay⟩ := h
  exact not_not.1 (mt hpay.1 hp)

/-- A move from one phase that holds nothing to another. -/
theorem RxInv.move {rx : Rxseq} {p q : Phase} (h : RxInv rx) (hp : rx.phase = p) (hp' : p.HoldsNothing)
    (hq : q.HoldsNothing) : RxInv { rx with phase := q } := by
  subst hp
  rw [h.1 hp', h.raw_eq_none hp'.ne_decoding, h.pay_eq_none hp'.ne_publishing]
  exact rxInv_holdsNothing hq

theorem Effect.rxInv (h : Effect i s t) (hs : RxInv s.rx) : RxInv t.rx := by
  have hraw := hs.raw_eq_none
  have hpay := hs.pay_eq_none
  cases h with
  | start _ hp => exact hs.move hp Phase.holdsNothing_off Phase.holdsNothing_top
  | rxdataEmpty _ hp => exact hs.move hp Phase.holdsNothing_poll Phase.holdsNothing_top
  | rxerr _ hp => exact hs.move hp Phase.holdsNothing_poll Phase.holdsNothing_exited
  | topStop _ hp => exact hs.move hp Phase.holdsNothing_top Phase.holdsNothing_exited
  | topGo _ hp => exact hs.move hp Phase.holdsNothing_top Phase.holdsNothing_poll
  | rxdata _ bs hp hbs => simpa [hraw, hpay, hp] using rxInv_feeding hbs
  | feedOpen _ _ rest _ hp => simpa [hraw, hpay, hp] using rxInv_phaseAfterFrame rest
  | feedClosed _ _ rest f _ hp => simpa [hpay, hp] using rxInv_decoding rest f
  | decodeOk _ _ p => exact rxInv_publishing _ p
  | decodeFails _ _ hp => simpa [hpay, hp] using rxInv_phaseAfterFrame s.rx.chunk
  | publishing _ _ _ hp => simpa [hraw, hp] using rxInv_phaseAfterFrame s.rx.chunk
  | _ => exact hs

/-! ### Faults -/

/-- RXSTEP faults in three phases, each without the data that the phase needs. -/
theorem rxstepEvent_fault {flag : Byte} {decode : Bytes → CodecResult} {w : Option Nat} {f : Fault}
    (h : rxstepEvent flag decode w s = .fault f) :
    (s.rx.phase = .feeding ∧ s.rx.chunk = []) ∨ (s.rx.phase = .decoding ∧ s.rx.raw = none) ∨
      (s.rx.phase = .publishing ∧ s.rx.pay = none) := by
  unfold rxstepEvent at h
  split at h <;> rename_i hp
  · cases h
  · cases h
  · cases h
  · split at h <;> cases h
  · split at h
    · split at h
      · next hc => exact .inl ⟨hp, hc⟩
      · cases h
    · cases h
  · split at h
    · split at h
      · next hr => exact .inr (.inl ⟨hp, hr⟩)
      · cases h
    · cases h
  · split at h
    · split at h
      · next hq => exact .inr (.inr ⟨hp, hq⟩)
      · cases h
    · cases h

/-- RXSTEP is the one label that can fault. -/
theorem exec_fault {f : Fault} (h : exec i s = .fault f) : ∃ w, i = .rxstep w := by
  cases i with
  | rxstep w => exact ⟨w, rfl⟩
  | stop | clear | snap | alive | tick => cases h
  | start => simp only [exec, execStart] at h; split at h <;> cases h
  | rxerr => simp only [exec, execRxerr] at h; split at h <;> cases h
  | feed => simp only [exec, execFeed, feedEvent] at h; split at h <;> cases h
  | take => simp only [exec, execTake] at h; split at h <;> cases h
  | takeend => simp only [exec, execTakeend] at h; split at h <;> cases h
  | xmit => simp only [exec, execXmit] at h; split at h <;> cases h
  | rxdata =>
    simp only [exec, execRxdata] at h
    split at h
    · split at h <;> cases h
    · cases h
  | pub =>
    simp only [exec, execPub] at h
    split at h
    · split at h <;> cases h
    · cases h
  | txstep =>
    simp only [exec, execTxstep, txstepEvent] at h
    split at h
    · cases h
    · cases h
    · split at h <;> cases h
    · cases h

theorem RxInv.exec_ne_fault (hs : RxInv s.rx) (f : Fault) : exec i s ≠ .fault f := by
  intro h
  obtain ⟨w, rfl⟩ := exec_fault h
  obtain ⟨-, hfeeding, hraw, hpay⟩ := hs
  obtain ⟨hp, hc⟩ | ⟨hp, hr⟩ | ⟨hp, hq⟩ := rxstepEvent_fault h
  · exact hfeeding hp hc
  · exact hraw.2 hp hr
  · exact hpay.2 hp hq

/-! ### The slot -/

theorem Effect.slot_of_pub {w : Option Nat} {p : Bytes} (h : Effect (.pub w p) s t) : t.ib.slot = some p := by
  cases h; rfl

theorem Effect.slot_of_publishing {w : Option Nat} {p : Bytes} (h : Effect (.rxstep w) s t)
    (hp : s.rx.phase = .publishing) (hpay : s.rx.pay = some p) : t.ib.slot = some p := by
  cases h with
  | publishing _ _ q _ _ hq => exact hq.symm.trans hpay
  | topStop _ hp' | topGo _ hp' | feedOpen _ _ _ _ hp' | feedClosed _ _ _ _ _ hp' | decodeOk _ _ _ hp'
  | decodeFails _ _ hp' => cases hp'.symm.trans hp

theorem Effect.slot_of_takeend {c : Nat} (h : Effect (.takeend c) s t) : t.ib.slot = none := by
  cases h <;> rfl

/-! ### The counters -/

theorem phaseAfterFrame_eq (chunk : Bytes) : phaseAfterFrame chunk = .top ∨ phaseAfterFrame chunk = .feeding := by
  cases chunk with
  | nil => exact .inl rfl
  | cons => exact .inr rfl

theorem phaseAfterFrame_ne_publishing (chunk : Bytes) : phaseAfterFrame chunk ≠ .publishing := by
  rcases phaseAfterFrame_eq chunk with h | h <;> simp [h]

theorem phaseAfterFrame_ne_decoding (chunk : Bytes) : phaseAfterFrame chunk ≠ .decoding := by
  rcases phaseAfterFrame_eq chunk with h | h <;> simp [h]

theorem framesInFlight_of_decoding (h : s.rx.phase = .decoding) : framesInFlight s = 1 := if_pos h

theorem framesInFlight_of_ne (h : s.rx.phase ≠ .decoding) : framesInFlight s = 0 := if_neg h

/-- The receive half of rule R34. -/
def ReceiveBalanced (s : State) : Prop := s.st.rxTotal = s.st.rxGood + s.st.rxBad + framesInFlight s

/-- The transmit half of rule R34. -/
def TransmitBalanced (s : State) : Prop := s.st.txTotal = s.st.txGood + s.st.txBad + transmitsInFlight s

theorem countersBalanced_iff : CountersBalanced s ↔ ReceiveBalanced s ∧ TransmitBalanced s := Iff.rfl

/-- A step outside DECODING on both sides that leaves the counters alone. -/
theorem ReceiveBalanced.of_st_eq (hb : ReceiveBalanced s) (hst : t.st = s.st) (hs : s.rx.phase ≠ .decoding)
    (ht : t.rx.phase ≠ .decoding) : ReceiveBalanced t := by
  rw [ReceiveBalanced, framesInFlight_of_ne hs] at hb
  rw [ReceiveBalanced, framesInFlight_of_ne ht, hst, hb]

theorem Effect.receiveBalanced (h : Effect i s t) (hb : ReceiveBalanced s)
    (hclear : i = .clear → framesInFlight s = 0) : ReceiveBalanced t := by
  cases h with
  | clear =>
    change 0 = 0 + 0 + framesInFlight s
    rw [hclear rfl]
  | start _ hp | rxdataEmpty _ hp | rxdata _ _ hp | rxerr _ hp | topStop _ hp | topGo _ hp =>
    exact hb.of_st_eq rfl (by simp [hp]) (by simp)
  | feedOpen _ _ _ _ hp | publishing _ _ _ hp =>
    exact hb.of_st_eq rfl (by simp [hp]) (phaseAfterFrame_ne_decoding _)
  | feedClosed _ _ _ _ _ hp =>
    rw [ReceiveBalanced, framesInFlight_of_ne (by simp [hp])] at hb
    rw [ReceiveBalanced, framesInFlight_of_decoding rfl, hb]
  | decodeOk _ _ _ hp =>
    rw [ReceiveBalanced, framesInFlight_of_decoding hp] at hb
    rw [ReceiveBalanced, framesInFlight_of_ne (by simp)]
    dsimp only
    omega
  | decodeFails _ _ hp =>
    rw [ReceiveBalanced, framesInFlight_of_decoding hp] at hb
    rw [ReceiveBalanced, framesInFlight_of_ne (phaseAfterFrame_ne_decoding _)]
    dsimp only
    omega
  | _ => exact hb

/-- Writing one entry of a list moves a count by that entry alone. -/
theorem countP_set_add {α : Type} (p : α → Bool) {l : List α} {c : Nat} {k : α} (h : l[c]? = some k) (k' : α) :
    (l.set c k').countP p + (p k).toNat = l.countP p + (p k').toNat := by
  obtain ⟨hlt, rfl⟩ := List.getElem?_eq_some_iff.1 h
  have hle := List.boole_getElem_le_countP (p := p) hlt
  rw [List.countP_set hlt]
  simp only [Bool.toNat, cond_eq_ite]
  split_ifs at hle ⊢ <;> omega

/-- A caller's step from `k` to `k'` that moves the counters by as much as it moves the transmits in flight. -/
theorem TransmitBalanced.of_set {c : Nat} {k k' : TxCtx} (hb : TransmitBalanced s) (hc : s.tx.ctx[c]? = some k)
    (ht : t.tx.ctx = s.tx.ctx.set c k')
    (hst : t.st.txTotal + (s.st.txGood + s.st.txBad + k.isBusy.toNat) =
      s.st.txTotal + (t.st.txGood + t.st.txBad + k'.isBusy.toNat)) : TransmitBalanced t := by
  have hcount := countP_set_add TxCtx.isBusy hc k'
  unfold TransmitBalanced transmitsInFlight at *
  rw [ht]
  omega

theorem Effect.transmitBalanced (h : Effect i s t) (hb : TransmitBalanced s)
    (hclear : i = .clear → transmitsInFlight s = 0) : TransmitBalanced t := by
  cases h with
  | clear =>
    change 0 = 0 + 0 + transmitsInFlight s
    rw [hclear rfl]
  | xmit _ _ _ hc | encodeFails _ _ _ hc | writeOk _ _ _ hc | writeFails _ _ _ hc =>
    exact hb.of_set hc rfl (by dsimp [TxCtx.isBusy]; omega)
  | encodeAlone _ _ _ _ hc | encodeOverlap _ _ _ _ hc => exact hb.of_set hc rfl rfl
  | _ => exact hb

/-! ### The overlap mark -/

/-- The mark is as before, or a TXSTEP with `wok = 0` has set it. -/
theorem Effect.txOverlap_cases (h : Effect i s t) :
    t.txOverlap = s.txOverlap ∨ (t.txOverlap = true ∧ ∃ c, i = .txstep c false) := by
  cases h with
  | encodeOverlap _ c => exact .inr ⟨rfl, c, rfl⟩
  | _ => exact .inl rfl

/-- A caller that enters a state other than T_WR leaves no more writers than there were. -/
theorem OverlapInv.of_set_not_writing {c : Nat} {k k' : TxCtx} (hs : OverlapInv s) (hc : s.tx.ctx[c]? = some k)
    (hk : k'.isWriting = false) (ht : t.tx.ctx = s.tx.ctx.set c k') (hmark : t.txOverlap = s.txOverlap) :
    OverlapInv t := by
  intro hno
  have hone := hs (hmark ▸ hno)
  have hcount := countP_set_add TxCtx.isWriting hc k'
  rw [hk, Bool.toNat_false] at hcount
  rw [ht]
  omega

/-- A caller that begins to write while no other caller writes is the only writer. -/
theorem countP_isWriting_set_of_alone {ctx : List TxCtx} {c : Nat} {k : TxCtx} (hc : ctx[c]? = some k)
    (halone : anotherWrites ctx c = false) (raw : Bytes) : (ctx.set c (.wr raw)).countP TxCtx.isWriting = 1 := by
  have hnone : (ctx.set c .idle).countP TxCtx.isWriting = 0 := List.countP_eq_zero.2 (List.any_eq_false.1 halone)
  have hidle : (ctx.set c .idle)[c]? = some .idle := by simp [List.getElem?_set_self', hc]
  simpa [hnone, TxCtx.isWriting] using countP_set_add TxCtx.isWriting hidle (.wr raw)

theorem Effect.overlapInv (h : Effect i s t) (hs : OverlapInv s) : OverlapInv t := by
  cases h with
  | xmit _ _ _ hc | encodeFails _ _ _ hc | writeOk _ _ _ hc | writeFails _ _ _ hc =>
    exact hs.of_set_not_writing hc rfl rfl rfl
  | encodeAlone _ _ _ raw hc _ halone => exact fun _ => (countP_isWriting_set_of_alone hc halone raw).le
  | encodeOverlap => exact nofun
  | _ => exact hs

/-! ### The loop-alive status -/

theorem Phase.alive_iff {p : Phase} :
    p.alive = true ↔ p ∈ [Phase.top, .poll, .feeding, .decoding, .publishing] := by
  cases p <;> simp [Phase.alive]

end Sys2Proof.Machine

namespace Sys2Proof.Proofs

open Sys2Proof.Machine

/-- Settles O12: a feed keeps the invariant and emits a raw frame, and only a feed touches `sy.*` or makes a frame. -/
theorem syncInvariantIsKept : Obligations.SyncInvariantIsKept := by
  intro s t hs h
  obtain ⟨i, rest, -, heff⟩ := step_next h
  exact ⟨heff.syncInv hs, heff.framesInv hs⟩

/-- Settles O27: each effect moves to a phase together with the data that the phase holds. -/
theorem phaseDataInvariantIsKept : Obligations.PhaseDataInvariantIsKept := by
  intro s t hs h
  obtain ⟨i, rest, -, heff⟩ := step_next h
  exact heff.rxInv hs

/-- Settles O43: each half of the invariant is kept by every effect, CLEAR needing that nothing is in flight. -/
theorem counterInvariantIsKept : Obligations.CounterInvariantIsKept := by
  intro s t i rest hb hd hclear h
  have heff : Effect i { s with trace := rest } t := exec_effect (step_of_decode_ok hd ▸ h)
  obtain ⟨hrx, htx⟩ := countersBalanced_iff.1 hb
  exact countersBalanced_iff.2
    ⟨heff.receiveBalanced hrx fun hi => (hclear hi).1, heff.transmitBalanced htx fun hi => (hclear hi).2⟩

/-- Settles O18: the effects that change `sy.*` are the two of RXSTEP in FEEDING and that of FEED, which needs OFF. -/
theorem syncBelongsToTheLoop : Obligations.SyncBelongsToTheLoop := by
  intro i s t h
  cases exec_effect h with
  | feedOpen | feedClosed => exact .inr (.inl rfl)
  | feed _ _ hp => exact .inr (.inr ⟨rfl, hp⟩)
  | _ => exact .inl rfl

/-- Settles O28: RXSTEP alone can fault, and the invariant gives it the data that its phase needs. -/
theorem noStepFaults : Obligations.NoStepFaults := by
  intro s f hs h
  obtain ⟨i, rest, hexec⟩ := step_fault h
  exact RxInv.exec_ne_fault (s := { s with trace := rest }) hs f hexec

/-- Settles O38: what the two publishes and TAKEEND leave in the slot, and that no other effect touches it. -/
theorem slotIsWrittenByPublishAndTakeend : Obligations.SlotIsWrittenByPublishAndTakeend := by
  intro i s t h
  have heff : Effect i s t := exec_effect h
  refine ⟨?_, ?_, ?_, ?_⟩
  · rintro w p rfl
    exact heff.slot_of_pub
  · rintro w p rfl hp hpay
    exact heff.slot_of_publishing hp hpay
  · rintro c rfl
    exact heff.slot_of_takeend
  · cases heff with
    | pub _ w p => exact .inr (.inl ⟨w, p, rfl, rfl⟩)
    | publishing _ w p hp _ hpay => exact .inr (.inr (.inl ⟨w, p, rfl, hp, hpay, rfl⟩))
    | takeFrame _ c | takeNothing _ c => exact .inr (.inr (.inr ⟨c, rfl, rfl⟩))
    | _ => exact .inl rfl

/-- Settles O41: the eight effects that change a counter are the rows of rule R33's table, with CLEAR before them. -/
theorem eachCounterHasItsOwnSteps : Obligations.EachCounterHasItsOwnSteps := by
  intro i s t h
  cases exec_effect h with
  | clear => exact .inr (.inl ⟨rfl, rfl⟩)
  | feedClosed _ _ _ _ _ hp => exact .inr (.inr (.inl ⟨rfl, hp, rfl, rfl⟩))
  | decodeOk _ _ _ hp => exact .inr (.inr (.inr (.inl ⟨rfl, hp, rfl, rfl⟩)))
  | decodeFails _ _ hp =>
    exact .inr (.inr (.inr (.inr (.inl ⟨rfl, hp, phaseAfterFrame_ne_publishing _, rfl⟩))))
  | xmit _ c p => exact .inr (.inr (.inr (.inr (.inr (.inl ⟨c, p, rfl, rfl⟩)))))
  | writeOk _ c raw hc => exact .inr (.inr (.inr (.inr (.inr (.inr (.inl ⟨c, raw, rfl, hc, rfl⟩))))))
  | writeFails _ c raw hc => exact .inr (.inr (.inr (.inr (.inr (.inr (.inr (.inl ⟨c, raw, rfl, hc, rfl⟩)))))))
  | encodeFails _ c p hc he =>
    exact .inr (.inr (.inr (.inr (.inr (.inr (.inr (.inr ⟨c, p, rfl, hc, he, rfl⟩)))))))
  | _ => exact .inl rfl

/-- Settles O48: one effect sets the mark and none clears it, and a caller that begins to write either is alone or sets
the mark. -/
theorem overlapMarkIsStickyAndKeepsItsInvariant : Obligations.OverlapMarkIsStickyAndKeepsItsInvariant := by
  intro i s t h
  have heff : Effect i s t := exec_effect h
  refine ⟨fun hset => ?_, ?_, heff.overlapInv⟩
  · rcases heff.txOverlap_cases with heq | ⟨hmark, -⟩
    · exact heq.trans hset
    · exact hmark
  · exact heff.txOverlap_cases.imp_right And.right

/-- Settles O9: at reset SYNC is idle and empty, the loop holds nothing, no context is busy and nothing is responded. -/
theorem invariantsHoldAtReset : Obligations.InvariantsHoldAtReset := by
  refine ⟨syncInv_idle Config.flag none, ⟨nofun, nofun⟩, rxInv_holdsNothing Phase.holdsNothing_off,
    ⟨?_, ?_⟩, ⟨rfl, ?_⟩, fun _ => ?_, ⟨fun _ _ => rfl, nofun⟩⟩
  · exact List.length_replicate
  · exact List.length_replicate
  · simp [State.reset, Tx.reset, Stats.zero, transmitsInFlight, TxCtx.isBusy, List.countP_replicate]
  · simp [State.reset, Tx.reset, TxCtx.isWriting, List.countP_replicate]

/-- Settles O54: ALIVE responds `State.alive`, the membership of the phase in the five running ones. -/
theorem aliveRespondsWhetherTheLoopRuns : Obligations.AliveRespondsWhetherTheLoopRuns :=
  fun s => ⟨s.alive, rfl, Phase.alive_iff⟩

end Sys2Proof.Proofs

/-! PROOFS. The two byte streams: over a run, a chunk boundary has no meaning to SYNC (rule R52), and over a step, the
line carries the TXBYTES in order (rules R51, R177, R178). -/

namespace Sys2Proof.Machine

variable {i : Instr} {s t u v : State}

/-! ### `Effect` is exactly `exec` -/

/-- The converse of `exec_effect`. -/
theorem Effect.exec_eq (h : Effect i s t) : exec i s = .next t := by
  cases h with
  | stop | clear | snap | alive | tick => rfl
  | start _ hp | rxerr _ hp | feed _ _ hp => exact if_pos hp
  | rxdataEmpty _ hp => exact (if_pos hp).trans (if_pos rfl)
  | rxdata _ _ hp hbs => exact (if_pos hp).trans (if_neg hbs)
  | pub _ _ _ hp hw => exact (if_pos hp).trans (if_pos hw)
  | topStop _ hp hs => simp [exec, execRxstep, rxstepEvent, hp, topStep_stop hs]
  | topGo _ hp hs => simp [exec, execRxstep, rxstepEvent, hp, topStep_go hs]
  | feedOpen _ _ _ _ hp hc hf => simp [exec, execRxstep, rxstepEvent, hp, hc, feedStep_open hf]
  | feedClosed _ _ _ _ _ hp hc hf => simp [exec, execRxstep, rxstepEvent, hp, hc, feedStep_closed hf]
  | decodeOk _ _ _ hp hr hd => simp [exec, execRxstep, rxstepEvent, hp, hr, hd, decodeStep_ok, State.respond]
  | decodeFails _ _ hp hr hd =>
    simp [exec, execRxstep, rxstepEvent, hp, hr, hd, decodeStep_formatError, State.respond]
  | publishing _ _ _ hp hw hq => simp [exec, execRxstep, rxstepEvent, hp, hw, hq, publishStep_eq]
  | take _ _ _ hc => simp [exec, execTake, hc, State.setCons]
  | takeFrame _ _ _ hc hs => rcases hc with hc | hc <;> simp [exec, execTakeend, hc, resume_some hs]
  | takeNothing _ _ hc hs => rcases hc with hc | hc <;> simp [exec, execTakeend, hc, resume_none hs]
  | xmit _ _ _ hc => simp [exec, execXmit, hc, State.count, State.setCtx, Stats.increment]
  | encodeFails _ _ _ hc he =>
    simp [exec, execTxstep, txstepEvent, hc, he, encodeStep_formatError, State.respond]
  | encodeAlone _ _ _ _ hc he ha =>
    simp [exec, execTxstep, txstepEvent, hc, he, encodeStep_alone, ha, State.respond]
  | encodeOverlap _ _ _ _ hc he ha =>
    simp [exec, execTxstep, txstepEvent, hc, he, encodeStep_overlap, ha, State.respond]
  | writeOk _ _ _ hc => simp [exec, execTxstep, txstepEvent, hc, writeStep_ok]
  | writeFails _ _ _ hc => simp [exec, execTxstep, txstepEvent, hc, writeStep_fail]

theorem exec_next_iff : exec i s = .next t ↔ Effect i s t := ⟨exec_effect, Effect.exec_eq⟩

/-! ### Runs -/

theorem runInstrs_nil : runInstrs [] s = some u ↔ s = u := by simp [runInstrs]

theorem runInstrs_cons {is : List Instr} :
    runInstrs (i :: is) s = some u ↔ ∃ t, Effect i s t ∧ runInstrs is t = some u := by
  simp only [← exec_next_iff, runInstrs]
  cases exec i s <;> simp

/-- What every label of a run keeps, the run keeps. -/
theorem runInstrs_keeps {P : State → Prop} {is : List Instr}
    (hkeep : ∀ i ∈ is, ∀ s t, Effect i s t → P s → P t) (hrun : runInstrs is s = some u) (hs : P s) : P u := by
  induction is generalizing s with
  | nil => exact runInstrs_nil.1 hrun ▸ hs
  | cons i is ih =>
    obtain ⟨t, heff, hrest⟩ := runInstrs_cons.1 hrun
    rw [List.forall_mem_cons] at hkeep
    exact ih hkeep.2 hrest (hkeep.1 s t heff hs)

/-! ### A longer chunk (rule R52) -/

/-- The phases that the loop enters once a chunk is fed and its stop test is done. -/
def Phase.PastChunk (p : Phase) : Prop := p = .poll ∨ p = .exited

/-- The loop exists, and in TOP nothing of a chunk is left. -/
def ChunkTaken (s : State) : Prop := s.rx.phase ≠ .off ∧ (s.rx.phase = .top → s.rx.chunk = [])

/-- The state `s` of a loop that has the bytes `more` to feed behind its chunk. -/
def State.extendChunk (more : Bytes) (s : State) : State :=
  { s with rx := { s.rx with phase := if s.rx.phase = .top then .feeding else s.rx.phase,
                             chunk := s.rx.chunk ++ more } }

theorem phaseAfterFrame_eq_top {chunk : Bytes} (h : phaseAfterFrame chunk = .top) : chunk = [] := by
  cases chunk with
  | nil => rfl
  | cons b bs => cases h

theorem phaseAfterFrame_ne_off (chunk : Bytes) : phaseAfterFrame chunk ≠ .off := by
  rcases phaseAfterFrame_eq chunk with h | h <;> simp [h]

/-- NEXT of rule R120 for a chunk and for the same chunk extended. -/
theorem extend_phaseAfterFrame (chunk : Bytes) {more : Bytes} (hmore : more ≠ []) :
    (if phaseAfterFrame chunk = .top then Phase.feeding else phaseAfterFrame chunk) =
      phaseAfterFrame (chunk ++ more) := by
  cases chunk with
  | nil => exact (if_neg hmore).symm
  | cons b bs => rfl

theorem extendChunk_alive (more : Bytes) (s : State) : (s.extendChunk more).alive = s.alive := by
  cases hp : s.rx.phase <;> simp [State.extendChunk, State.alive, Phase.alive, hp]

/-- Only the transport's labels lead out of POLL, and none leads out of EXITED. -/
theorem Effect.pastChunk (h : Effect i s t) (hi : i.agents ≠ [.xport]) (hs : s.rx.phase.PastChunk) :
    t.rx.phase.PastChunk := by
  cases h with
  | rxdataEmpty | rxdata | rxerr => exact absurd rfl hi
  | start _ hp | topStop _ hp | topGo _ hp | feedOpen _ _ _ _ hp | feedClosed _ _ _ _ _ hp | decodeOk _ _ _ hp
  | decodeFails _ _ hp | publishing _ _ _ hp => rcases hs with hs | hs <;> cases hp.symm.trans hs
  | _ => exact hs

theorem Effect.chunkTaken (h : Effect i s t) (hi : i.agents ≠ [.xport]) (hs : ChunkTaken s) : ChunkTaken t := by
  cases h with
  | rxdataEmpty | rxdata | rxerr => exact absurd rfl hi
  | start _ hp => exact absurd hp hs.1
  | topStop | topGo | feedClosed | decodeOk => exact ⟨nofun, nofun⟩
  | feedOpen | decodeFails | publishing =>
    exact ⟨phaseAfterFrame_ne_off _, phaseAfterFrame_eq_top⟩
  | _ => exact hs

/-- A label that the transport does not issue does the same whatever bytes are behind the chunk, unless it is the stop
test. -/
theorem Effect.extendChunk {more : Bytes} (hmore : more ≠ []) (h : Effect i s t) (hi : i.agents ≠ [.xport])
    (hs : ChunkTaken s) (ht : ¬ t.rx.phase.PastChunk) : Effect i (s.extendChunk more) (t.extendChunk more) := by
  cases h with
  | rxdataEmpty | rxdata | rxerr => exact absurd rfl hi
  | start _ hp | feed _ _ hp | pub _ _ _ hp => exact absurd hp hs.1
  | topStop => exact absurd (.inr rfl) ht
  | topGo => exact absurd (.inl rfl) ht
  | alive => exact extendChunk_alive more s ▸ Effect.alive (s.extendChunk more)
  | feedOpen _ b rest sy hp hc hf =>
    simpa [State.extendChunk, extend_phaseAfterFrame _ hmore] using
      Effect.feedOpen (s.extendChunk more) b (rest ++ more) sy (by simp [State.extendChunk, hp])
        (by simp [State.extendChunk, hc]) hf
  | feedClosed _ b rest f sy hp hc hf =>
    exact .feedClosed (s.extendChunk more) b (rest ++ more) f sy (by simp [State.extendChunk, hp])
        (by simp [State.extendChunk, hc]) hf
  | decodeOk _ f p hp hr hd =>
    exact .decodeOk (s.extendChunk more) f p (by simp [State.extendChunk, hp]) hr hd
  | decodeFails _ f hp hr hd =>
    simpa [State.extendChunk, extend_phaseAfterFrame _ hmore] using
      Effect.decodeFails (s.extendChunk more) f (by simp [State.extendChunk, hp]) hr hd
  | publishing _ w p hp hw hq =>
    simpa [State.extendChunk, extend_phaseAfterFrame _ hmore] using
      Effect.publishing (s.extendChunk more) w p (by simp [State.extendChunk, hp]) hw hq
  | stop | clear | snap | tick => constructor
  | take | takeFrame | takeNothing | xmit | encodeFails | encodeAlone | encodeOverlap | writeOk | writeFails =>
    constructor <;> assumption

/-- A run that ends before the loop has done its stop test runs the same from the extended chunk. -/
theorem runInstrs_extendChunk {more : Bytes} {is : List Instr} (hmore : more ≠ [])
    (his : ∀ i ∈ is, i.agents ≠ [.xport]) (hrun : runInstrs is s = some u) (hs : ChunkTaken s)
    (hu : ¬ u.rx.phase.PastChunk) : runInstrs is (s.extendChunk more) = some (u.extendChunk more) := by
  induction is generalizing s with
  | nil => rw [runInstrs_nil.1 hrun]; rfl
  | cons i is ih =>
    obtain ⟨t, heff, hrest⟩ := runInstrs_cons.1 hrun
    rw [List.forall_mem_cons] at his
    have ht : ¬ t.rx.phase.PastChunk := fun hpast =>
      hu (runInstrs_keeps (fun j hj _ _ he => he.pastChunk (his.2 j hj)) hrest hpast)
    exact runInstrs_cons.2 ⟨t.extendChunk more, heff.extendChunk hmore his.1 hs ht,
      ih his.2 hrest (heff.chunkTaken his.1 hs)⟩

/-- RXDATA with a chunk that is not empty. -/
theorem Effect.of_rxdata {bs : Bytes} (hbs : bs ≠ []) (h : Effect (.rxdata bs) s t) :
    s.rx.phase = .poll ∧ t = { s with rx := { s.rx with phase := .feeding, chunk := bs } } := by
  cases h with
  | rxdataEmpty => exact absurd rfl hbs
  | rxdata _ _ hp => exact ⟨hp, rfl⟩

/-- A run behind RXDATA, and the same run behind RXDATA with a longer chunk. -/
theorem runInstrs_rxdata_append {a b : Bytes} {is : List Instr} (ha : a ≠ []) (hb : b ≠ [])
    (his : ∀ i ∈ is, i.agents ≠ [.xport]) (hrun : runInstrs (.rxdata a :: is) s = some u) :
    ChunkTaken u ∧ (¬ u.rx.phase.PastChunk → runInstrs (.rxdata (a ++ b) :: is) s = some (u.extendChunk b)) := by
  obtain ⟨t, heff, hrest⟩ := runInstrs_cons.1 hrun
  obtain ⟨hp, rfl⟩ := heff.of_rxdata ha
  have htaken : ChunkTaken { s with rx := { s.rx with phase := .feeding, chunk := a } } := ⟨nofun, nofun⟩
  exact ⟨runInstrs_keeps (fun i hi _ _ he => he.chunkTaken (his i hi)) hrest htaken, fun hu =>
    runInstrs_cons.2 ⟨_, .rxdata s (a ++ b) hp (by simp [ha]), runInstrs_extendChunk hb his hrest htaken hu⟩⟩

/-- The stop test and the poll of `b` as the next chunk lead where a chunk that had `b` behind it is now. -/
theorem runInstrs_poll_eq_extendChunk {b : Bytes} (hb : b ≠ []) (hu : ChunkTaken u) (htop : u.rx.phase = .top)
    (hrun : runInstrs [.rxstep none, .rxdata b] u = some v) : v = u.extendChunk b := by
  obtain ⟨t, htest, hrest⟩ := runInstrs_cons.1 hrun
  obtain ⟨t', hpoll, hend⟩ := runInstrs_cons.1 hrest
  obtain ⟨hp, rfl⟩ := hpoll.of_rxdata hb
  obtain rfl := runInstrs_nil.1 hend
  cases htest with
  | topGo => simp [State.extendChunk, htop, hu.2 htop]
  | topStop => cases hp
  | feedOpen _ _ _ _ hp' | feedClosed _ _ _ _ _ hp' | decodeOk _ _ _ hp' | decodeFails _ _ hp'
  | publishing _ _ _ hp' => cases hp'.symm.trans htop

/-! ### The line (rules R51, R177, R178) -/

theorem streamOf_append (rs rs' : List Response) : streamOf (rs ++ rs') = streamOf rs ++ streamOf rs' := by
  induction rs with
  | nil => rfl
  | cons r rs ih => cases r <;> simp [streamOf, ih]

theorem hasWriteError_append {rs : List Response} (rs' : List Response) (h : hasWriteError rs) :
    hasWriteError (rs ++ rs') :=
  h.imp fun _ hr => List.mem_append_left _ hr

/-- A step that adds the TXBYTES of its own responses to the line, or is behind an overlap. -/
theorem LineInv.of_lineAfter {rs : List Response} (hs : LineInv s) (hout : t.out = s.out ++ rs)
    (hmark : t.txOverlap = s.txOverlap) (hline : t.line = s.lineAfter (streamOf rs)) : LineInv t := by
  refine ⟨fun hno hok => ?_, fun hset => ?_⟩
  · rw [hmark] at hno
    rw [hout] at hok ⊢
    rw [hline, lineAfter_of_no_overlap hno, hs.1 hno (mt (hasWriteError_append rs) hok), streamOf_append]
    rfl
  · rw [hline, lineAfter_of_overlap (hmark ▸ hset)]

/-- Nothing is added to the line, whether or not the mark is set. -/
theorem LineInv.lineAfter_nil (hs : LineInv s) : s.lineAfter [] = s.line := by
  cases hmark : s.txOverlap with
  | false => simp [lineAfter_of_no_overlap hmark]
  | true => rw [lineAfter_of_overlap hmark, hs.2 hmark]

/-- A step whose responses hold no TXBYTES and that leaves the line alone. -/
theorem LineInv.of_line_eq {rs : List Response} (hs : LineInv s) (hout : t.out = s.out ++ rs)
    (hrs : streamOf rs = []) (hmark : t.txOverlap = s.txOverlap) (hline : t.line = s.line) : LineInv t :=
  hs.of_lineAfter hout hmark (by rw [hline, hrs, hs.lineAfter_nil])

theorem Effect.lineInv (h : Effect i s t) (hs : LineInv s) : LineInv t := by
  cases h with
  | snap | alive | rxerr | topStop | decodeOk | decodeFails | takeFrame | takeNothing | encodeFails | encodeAlone
  | feed => exact hs.of_line_eq rfl rfl rfl rfl
  | encodeOverlap => exact ⟨nofun, fun _ => rfl⟩
  | writeOk _ c raw =>
    exact hs.of_lineAfter rfl rfl (congrArg s.lineAfter (List.append_nil _).symm)
  | writeFails _ c raw =>
    have herr : hasWriteError (s.out ++ [.xmitR c .writeError]) := ⟨c, by simp⟩
    exact ⟨fun _ hok => absurd herr hok, fun hset => lineAfter_of_overlap (s := s) hset _⟩
  | _ => exact hs

end Sys2Proof.Machine

namespace Sys2Proof.Proofs

open Sys2Proof.Machine

/-- Settles O17: the run is followed label by label from the longer chunk, TOP standing for FEEDING with `b` left. -/
theorem chunkBoundariesDoNotMatter : Obligations.ChunkBoundariesDoNotMatter := by
  intro s u a b is ha hb his hrun
  obtain ⟨htaken, hlonger⟩ := runInstrs_rxdata_append ha hb his hrun
  refine ⟨fun hpoll hexited => hlonger (not_or.2 ⟨hpoll, hexited⟩), fun v htop hv => ?_⟩
  have hinside : ¬ u.rx.phase.PastChunk := by simp [Phase.PastChunk, htop]
  rw [runInstrs_poll_eq_extendChunk hb htaken htop hv]
  exact hlonger hinside

/-- Settles O49: a write that succeeds puts its TXBYTES on the line; one that fails and an overlap end the claim. -/
theorem lineCarriesTheTxbytesInOrder : Obligations.LineCarriesTheTxbytesInOrder := by
  intro s t hs h
  obtain ⟨i, rest, -, heff⟩ := step_next h
  exact heff.lineInv hs

end Sys2Proof.Proofs

/-! PROOFS. EW32: the fields of an event as functions of its instruction, that the decoder accepts exactly the words with
these fields (rules R78 to R80, R84), and the worked encodings (rule R88). -/

namespace Sys2Proof

/-! ### The fields of an event -/

/-- The `op` field of an instruction's event (rule R80). -/
@[simp] def Instr.opcode : Instr → Nat
  | .start => 0x1
  | .stop => 0x2
  | .clear => 0x3
  | .snap => 0x4
  | .alive => 0x5
  | .rxdata _ => 0x6
  | .rxerr => 0x7
  | .rxstep _ => 0x8
  | .take _ _ => 0x9
  | .takeend _ => 0xA
  | .tick => 0xB
  | .xmit _ _ => 0xC
  | .txstep _ _ => 0xD
  | .feed _ => 0xE
  | .pub _ _ => 0xF

/-- The `id` field of an instruction's event (rules R80, R82). -/
@[simp] def Instr.idValue : Instr → Nat
  | .rxstep w | .pub w _ => idOfWaiter w
  | .take c _ | .takeend c => c
  | .xmit t _ | .txstep t _ => t
  | .start | .stop | .clear | .snap | .alive | .rxdata _ | .rxerr | .tick | .feed _ => 0

/-- The bytes behind the header of an instruction's event (rule R79). -/
@[simp] def Instr.payload : Instr → Bytes
  | .rxdata p | .xmit _ p | .pub _ p => p
  | .start | .stop | .clear | .snap | .alive | .rxerr | .rxstep _ | .take _ _ | .takeend _ | .tick | .txstep _ _
  | .feed _ => []

/-- The `arg` field of an instruction's event (rules R79, R80). -/
@[simp] def Instr.argValue : Instr → Nat
  | .rxdata p | .xmit _ p | .pub _ p => p.length
  | .take _ n => n
  | .txstep _ wok => wok.toNat
  | .feed b => b.toNat
  | .start | .stop | .clear | .snap | .alive | .rxerr | .rxstep _ | .takeend _ | .tick => 0

variable {i : Instr} {hd : Word} {p : Bytes} {ws rest : List Word}

/-- The encoder writes the header of the three fields and then the payload. -/
theorem encode_eq (i : Instr) :
    encode i = header i.opcode i.idValue i.argValue :: i.payload.map payloadWord := by
  cases i <;> rfl

theorem opcode_lt (i : Instr) : i.opcode < 16 := by
  cases i <;> simp

theorem idValue_lt (h : i.fits = true) : i.idValue < 16 := by
  cases i with
  | rxstep w => exact idOfWaiter_lt h
  | pub w p =>
    simp only [Instr.fits, Bool.and_eq_true] at h
    exact idOfWaiter_lt h.1
  | takeend | txstep => simpa [Instr.fits, fitsId] using h
  | take | xmit =>
    simp only [Instr.fits, fitsId, Bool.and_eq_true, decide_eq_true_eq] at h
    exact h.1
  | _ => exact Nat.zero_lt_succ _

theorem argValue_lt (h : i.fits = true) : i.argValue < 2 ^ 24 := by
  cases i with
  | rxdata => simpa [Instr.fits, fitsArg] using h
  | take | xmit | pub =>
    simp only [Instr.fits, fitsArg, Bool.and_eq_true, decide_eq_true_eq] at h
    exact h.2
  | txstep t wok => exact lt_of_le_of_lt wok.toNat_le (by decide)
  | feed b => exact lt_trans b.isLt (by decide)
  | _ => exact Nat.two_pow_pos 24

/-- The header `hd` and the payload `p` are the event of `i`. -/
structure IsEventOf (hd : Word) (p : Bytes) (i : Instr) : Prop where
  fits : i.fits = true
  op : opField hd = i.opcode
  id : idField hd = i.idValue
  arg : argField hd = i.argValue
  payload : p = i.payload

theorem isEventOf_header (h : i.fits = true) :
    IsEventOf (header i.opcode i.idValue i.argValue) i.payload i where
  fits := h
  op := opField_header (opcode_lt i) (idValue_lt h) (argValue_lt h)
  id := idField_header (opcode_lt i) (idValue_lt h) (argValue_lt h)
  arg := argField_header (opcode_lt i) (idValue_lt h) (argValue_lt h)
  payload := rfl

/-- The event of an instruction is what the encoder writes. -/
theorem IsEventOf.encode_eq (h : IsEventOf hd p i) : encode i = hd :: p.map payloadWord := by
  rw [Sys2Proof.encode_eq, ← h.op, ← h.id, ← h.arg, ← h.payload, header_of_fields]

/-- The payload of an event is as long as its header announces. -/
theorem IsEventOf.length_eq (h : IsEventOf hd p i) : p.length = payloadCount hd := by
  rw [payloadCount_eq, h.op, h.arg, h.payload]
  cases i <;> rfl

/-! ### The parts of `arg` that TXSTEP and FEED read -/

theorem bits_above_verdict (hd : Word) : bits 23 1 hd = argField hd / 2 := by
  simp only [bits, argField]
  omega

theorem verdict_bit (hd : Word) : bits 0 0 hd = argField hd % 2 := by
  simp only [bits, argField]
  omega

theorem bits_above_byte (hd : Word) : bits 23 8 hd = argField hd / 256 := by
  simp only [bits, argField]
  omega

theorem byte_bits (hd : Word) : bits 7 0 hd = argField hd % 256 := by
  simp only [bits, argField]
  omega

/-! ### The decoder accepts exactly the encoder's words -/

theorem IsEventOf.decodeHeader_eq (h : IsEventOf hd p i) : decodeHeader hd p = .ok i := by
  obtain ⟨hfits, hop, hid, harg, rfl⟩ := h
  cases i with
  | rxstep w => simp [decodeHeader, hop, hid, harg, requireZero, waiterOfId_idOfWaiter hfits]
  | pub w p =>
    simp only [Instr.fits, Bool.and_eq_true] at hfits
    simp [decodeHeader, hop, hid, waiterOfId_idOfWaiter hfits.1]
  | txstep t wok =>
    cases wok <;> simp [decodeHeader, hop, hid, harg, bits_above_verdict, verdict_bit, requireZero]
  | feed b =>
    have hb : b.toNat < 256 := b.isLt
    simp [decodeHeader, hop, hid, harg, bits_above_byte, byte_bits, requireZero, Nat.div_eq_of_lt hb,
      Nat.mod_eq_of_lt hb]
  | _ => simp [decodeHeader, hop, hid, harg, requireZero]

/-- No payload where the header announces none. -/
theorem payload_eq_nil (hlen : p.length = payloadCount hd)
    (h : argField hd = 0 ∨ ¬ (opField hd = 0x6 ∨ opField hd = 0xC ∨ opField hd = 0xF)) : p = [] := by
  apply List.eq_nil_of_length_eq_zero
  rw [hlen, payloadCount_eq]
  rcases h with harg | hop
  · rw [harg, ite_self]
  · exact if_neg hop

/-- The rows of rule R80 without an operand. -/
theorem isEventOf_bare {j : Instr} (hlen : p.length = payloadCount hd)
    (hi : requireZero (idField hd == 0 && argField hd == 0) j = .ok i) (hop : opField hd = j.opcode)
    (hj : j.fits = true ∧ j.idValue = 0 ∧ j.argValue = 0 ∧ j.payload = []) : IsEventOf hd p i := by
  obtain ⟨hz, rfl⟩ := requireZero_ok hi
  obtain ⟨hfits, hid, harg, hpay⟩ := hj
  simp only [Bool.and_eq_true, beq_iff_eq] at hz
  exact ⟨hfits, hop, hz.1.trans hid.symm, hz.2.trans harg.symm, (payload_eq_nil hlen (.inl hz.2)).trans hpay.symm⟩

/-- The inversion of `decodeHeader`, row by row, for a payload as long as the header announces. -/
theorem isEventOf_of_decodeHeader (hi : decodeHeader hd p = .ok i) (hlen : p.length = payloadCount hd) :
    IsEventOf hd p i := by
  have hwaiter : fitsWaiter (waiterOfId (idField hd)) = true := fitsWaiter_waiterOfId (idField_lt hd)
  have hid : fitsId (idField hd) = true := decide_eq_true (idField_lt hd)
  have harg : fitsArg (argField hd) = true := decide_eq_true (argField_lt hd)
  have hpay (hop : opField hd = 0x6 ∨ opField hd = 0xC ∨ opField hd = 0xF) : p.length = argField hd := by
    rw [hlen, payloadCount_eq, if_pos hop]
  unfold decodeHeader at hi
  split at hi
  · next hop => exact isEventOf_bare hlen hi hop ⟨rfl, rfl, rfl, rfl⟩
  · next hop => exact isEventOf_bare hlen hi hop ⟨rfl, rfl, rfl, rfl⟩
  · next hop => exact isEventOf_bare hlen hi hop ⟨rfl, rfl, rfl, rfl⟩
  · next hop => exact isEventOf_bare hlen hi hop ⟨rfl, rfl, rfl, rfl⟩
  · next hop => exact isEventOf_bare hlen hi hop ⟨rfl, rfl, rfl, rfl⟩
  · next hop =>
    obtain ⟨hz, rfl⟩ := requireZero_ok hi
    have hlen := hpay (.inl hop)
    exact ⟨by rwa [Instr.fits, hlen], hop, beq_iff_eq.1 hz, hlen.symm, rfl⟩
  · next hop => exact isEventOf_bare hlen hi hop ⟨rfl, rfl, rfl, rfl⟩
  · next hop =>
    obtain ⟨hz, rfl⟩ := requireZero_ok hi
    have hz := beq_iff_eq.1 hz
    exact ⟨hwaiter, hop, (idOfWaiter_waiterOfId _).symm, hz, payload_eq_nil hlen (.inl hz)⟩
  · next hop =>
    cases hi
    exact ⟨Bool.and_eq_true_iff.2 ⟨hid, harg⟩, hop, rfl, rfl, payload_eq_nil hlen (.inr (by simp [hop]))⟩
  · next hop =>
    obtain ⟨hz, rfl⟩ := requireZero_ok hi
    have hz := beq_iff_eq.1 hz
    exact ⟨hid, hop, rfl, hz, payload_eq_nil hlen (.inl hz)⟩
  · next hop => exact isEventOf_bare hlen hi hop ⟨rfl, rfl, rfl, rfl⟩
  · next hop =>
    cases hi
    have hlen := hpay (.inr (.inl hop))
    exact ⟨Bool.and_eq_true_iff.2 ⟨hid, by rwa [hlen]⟩, hop, rfl, hlen.symm, rfl⟩
  · next hop =>
    obtain ⟨hz, rfl⟩ := requireZero_ok hi
    exact ⟨hid, hop, rfl, (verdict_of_arg (beq_iff_eq.1 hz)).symm, payload_eq_nil hlen (.inr (by simp [hop]))⟩
  · next hop =>
    obtain ⟨hz, rfl⟩ := requireZero_ok hi
    simp only [Bool.and_eq_true, beq_iff_eq] at hz
    exact ⟨rfl, hop, hz.1, (byte_of_arg hz.2).symm, payload_eq_nil hlen (.inr (by simp [hop]))⟩
  · next hop =>
    cases hi
    have hlen := hpay (.inr (.inr hop))
    exact ⟨Bool.and_eq_true_iff.2 ⟨hwaiter, by rwa [hlen]⟩, hop, (idOfWaiter_waiterOfId _).symm, hlen.symm, rfl⟩
  · cases hi

/-- Whatever `decode` accepts is the event of its instruction, and behind it stands what `decode` leaves over. -/
theorem isEventOf_of_decode (h : decode ws = .ok (i, rest)) :
    ∃ hd p, IsEventOf hd p i ∧ ws = hd :: (p.map payloadWord ++ rest) := by
  obtain ⟨hd, tl, p, rfl, hp, hi⟩ := decode_ok h
  obtain ⟨hlen, rfl⟩ := takePayload_ok hp
  exact ⟨hd, p, isEventOf_of_decodeHeader hi hlen, rfl⟩

/-- `decode` accepts every event, whatever words stand behind it. -/
theorem IsEventOf.decode_eq (h : IsEventOf hd p i) (rest : List Word) :
    decode (hd :: (p.map payloadWord ++ rest)) = .ok (i, rest) :=
  decode_cons (h.length_eq ▸ takePayload_map p rest) h.decodeHeader_eq

end Sys2Proof

namespace Sys2Proof.Proofs

open Sys2Proof.Machine

/-- Settles O2: the words of a label that fits are its event, and the decoder accepts every event. -/
theorem decodeOfEncodeIsTheInstruction : Obligations.DecodeOfEncodeIsTheInstruction := by
  intro i rest hfits
  rw [encode_eq]
  exact (isEventOf_header hfits).decode_eq rest

/-- Settles O3: what the decoder accepts is the event of its instruction, which the encoder writes. -/
theorem encodeOfDecodeIsTheWords : Obligations.EncodeOfDecodeIsTheWords := by
  intro ws rest i h
  obtain ⟨hd, p, hev, rfl⟩ := isEventOf_of_decode h
  exact ⟨hev.fits, by rw [hev.encode_eq, List.cons_append]⟩

/-- Settles O4: behind an accepted header stand its payload words, as many as `payloadCount` says, and then the rest. -/
theorem eventLengthFollowsFromOpcode : Obligations.EventLengthFollowsFromOpcode := by
  intro h ws rest i hok
  obtain ⟨hd, p, hev, heq⟩ := isEventOf_of_decode hok
  obtain ⟨rfl, rfl⟩ := List.cons.inj heq
  have hlen : p.length = payloadCount h := hev.length_eq
  rw [payloadCount_eq] at hlen
  split at hlen <;> rename_i hop
  · rw [if_pos hop, ← hlen]
    simp
  · rw [if_neg hop]
    simp [List.eq_nil_of_length_eq_zero hlen]

/-- Settles O1: the encoder writes each word of the list, and every label of it fits, so O2 reads it back. -/
theorem workedEncodingsDecodeAndEncode : Obligations.WorkedEncodingsDecodeAndEncode := by
  intro e he
  have hwritten : e.1.fits = true ∧ encode e.1 = e.2 := by
    revert e
    decide
  obtain ⟨hfits, henc⟩ := hwritten
  exact ⟨by simpa [henc] using decodeOfEncodeIsTheInstruction e.1 [] hfits, henc⟩

end Sys2Proof.Proofs

/-! PROOFS. The labels that a step refuses (rules R81 to R83): words that are no event, contexts that do not exist, waiter
choices and verdicts; what a choice that is taken does; and the step that encodes (rules R176, R202). -/

namespace Sys2Proof

variable {i : Instr} {hd : Word} {ws : List Word}

/-! ### Words that are no event -/

/-- A field of the header that the table gives as 0 and is not, or `op = 0` (rules R80, R81). -/
def HeaderReserved (hd : Word) : Prop :=
  opField hd = 0x0 ∨
  (opField hd ∈ [0x1, 0x2, 0x3, 0x4, 0x5, 0x7, 0xB] ∧ (idField hd ≠ 0 ∨ argField hd ≠ 0)) ∨
  (opField hd = 0x6 ∧ idField hd ≠ 0) ∨
  (opField hd ∈ [0x8, 0xA] ∧ argField hd ≠ 0) ∨
  (opField hd = 0xD ∧ bits 23 1 hd ≠ 0) ∨
  (opField hd = 0xE ∧ (idField hd ≠ 0 ∨ bits 23 8 hd ≠ 0))

/-- The header of an event has no reserved field. -/
theorem IsEventOf.not_headerReserved {p : Bytes} (h : IsEventOf hd p i) : ¬ HeaderReserved hd := by
  obtain ⟨-, hop, hid, harg, -⟩ := h
  unfold HeaderReserved
  rw [bits_above_verdict, bits_above_byte, hop, hid, harg]
  cases i with
  | txstep t wok => cases wok <;> simp
  | feed b => simpa using b.isLt
  | _ => simp

theorem decode_ne_ok_of_headerReserved (h : HeaderReserved hd) (r : Instr × List Word) :
    decode (hd :: ws) ≠ .ok r := by
  intro hok
  obtain ⟨hd', p, hev, heq⟩ := isEventOf_of_decode hok
  obtain ⟨rfl, -⟩ := List.cons.inj heq
  exact hev.not_headerReserved h

theorem decode_ne_ok_of_payload (hop : opField hd ∈ [0x6, 0xC, 0xF])
    (hw : ∃ w ∈ ws.take (argField hd), bits 31 8 w ≠ 0) (r : Instr × List Word) : decode (hd :: ws) ≠ .ok r := by
  have hcount : payloadCount hd = argField hd := by
    rw [payloadCount_eq]
    exact if_pos (by simpa using hop)
  obtain ⟨e, he⟩ := takePayload_error hw
  simp [decode, hcount, he]

namespace Machine

variable {s t : State}

theorem step_of_decode_ne_ok (h : ∀ r, decode s.trace ≠ .ok r) : ∃ e, step s = .refused (.reserved e) := by
  cases hd : decode s.trace with
  | ok r => exact absurd hd (h r)
  | error e => exact ⟨e, by simp only [step, hd]⟩

/-! ### Contexts that do not exist -/

theorem exec_take_no_consumer {c n : Nat} (h : s.ib.cons.length ≤ c) :
    exec (.take c n) s = .refused (.noSuchConsumer c) := by
  simp only [exec, execTake, List.getElem?_eq_none h]

theorem exec_takeend_no_consumer {c : Nat} (h : s.ib.cons.length ≤ c) :
    exec (.takeend c) s = .refused (.noSuchConsumer c) := by
  simp only [exec, execTakeend, List.getElem?_eq_none h]

theorem exec_xmit_no_caller {c : Nat} {p : Bytes} (h : s.tx.ctx.length ≤ c) :
    exec (.xmit c p) s = .refused (.noSuchCaller c) := by
  simp only [exec, execXmit, List.getElem?_eq_none h]

theorem exec_txstep_no_caller {c : Nat} {wok : Bool} (h : s.tx.ctx.length ≤ c) :
    exec (.txstep c wok) s = .refused (.noSuchCaller c) := by
  simp only [exec, execTxstep, txstepEvent, List.getElem?_eq_none h]

/-! ### The waiter choice (rule R82) -/

/-- A choice is legal if it names nobody and nobody waits, or if it names a consumer that waits. -/
theorem waiterLegal_iff {cons : List Cons} {w : Option Nat} :
    waiterLegal cons w = true ↔
      (w = none ∧ ∀ c k : Nat, cons[c]? ≠ some (.wait k)) ∨
      (∃ c k : Nat, w = some c ∧ cons[c]? = some (.wait k)) := by
  cases w with
  | none => simp [waiterLegal_none_iff]
  | some c => simp [waiterLegal_some_iff]

/-- A publish, of PUB or of the loop, makes its choice of a waiter and notifies it. -/
theorem Effect.notifies {w : Option Nat} (h : (∃ p, Effect (.pub w p) s t) ∨
    (s.rx.phase = .publishing ∧ Effect (.rxstep w) s t)) :
    waiterLegal s.ib.cons w = true ∧ t.ib.cons = notify s.ib.cons w := by
  rcases h with ⟨p, h⟩ | ⟨hp, h⟩
  · cases h with
    | pub _ _ _ _ hw => exact ⟨hw, rfl⟩
  · cases h with
    | publishing _ _ _ _ hw => exact ⟨hw, rfl⟩
    | topStop _ hp' | topGo _ hp' | feedOpen _ _ _ _ hp' | feedClosed _ _ _ _ _ hp' | decodeOk _ _ _ hp'
    | decodeFails _ _ hp' => cases hp.symm.trans hp'

/-- PUB in OFF has a next state exactly when its choice is legal. -/
theorem exec_pub_next_iff {w : Option Nat} {p : Bytes} (hp : s.rx.phase = .off) :
    (∃ t, exec (.pub w p) s = .next t) ↔ waiterLegal s.ib.cons w = true := by
  constructor
  · rintro ⟨t, h⟩
    exact (execPub_next h).2.1
  · intro hw
    exact ⟨_, (Effect.pub s w p hp hw).exec_eq⟩

/-- RXSTEP in PUBLISHING has a next state exactly when its choice is legal. -/
theorem exec_rxstep_publishing_next_iff {w : Option Nat} {p : Bytes} (hp : s.rx.phase = .publishing)
    (hpay : s.rx.pay = some p) : (∃ t, exec (.rxstep w) s = .next t) ↔ waiterLegal s.ib.cons w = true := by
  constructor
  · rintro ⟨t, h⟩
    exact (Effect.notifies (.inr ⟨hp, exec_effect h⟩)).1
  · intro hw
    exact ⟨_, (Effect.publishing s w p hp hw hpay).exec_eq⟩

theorem exec_pub_illegal {w : Option Nat} (p : Bytes) (h : waiterLegal s.ib.cons w = false) :
    ∃ r, exec (.pub w p) s = .refused r := by
  by_cases hp : s.rx.phase = .off
  · exact ⟨.waiterChoice w, by simp [exec, execPub, hp, h]⟩
  · exact ⟨.phaseNotOff, if_neg hp⟩

theorem exec_rxstep_illegal {w : Option Nat} (hp : s.rx.phase = .publishing) (h : waiterLegal s.ib.cons w = false) :
    exec (.rxstep w) s = .refused (.waiterChoice w) := by
  simp [exec, execRxstep, rxstepEvent, hp, h]

/-- Outside PUBLISHING an RXSTEP that names a consumer is refused. -/
theorem exec_rxstep_named {c : Nat} (hp : s.rx.phase ≠ .publishing) :
    ∃ r, exec (.rxstep (some c)) s = .refused r := by
  cases h : s.rx.phase with
  | publishing => exact absurd h hp
  | off | poll | exited => exact ⟨.loopNotStepping, by simp [exec, execRxstep, rxstepEvent, h]⟩
  | top | feeding | decoding => exact ⟨.waiterChoice (some c), by simp [exec, execRxstep, rxstepEvent, h]⟩

/-- A legal choice that names a consumer notifies it. -/
theorem notify_self {cons : List Cons} {c : Nat} (h : waiterLegal cons (some c) = true) :
    (notify cons (some c))[c]? = some .notified := by
  obtain ⟨k, hk⟩ := waiterLegal_some_iff.1 h
  exact List.getElem?_set_self (List.getElem?_eq_some_iff.1 hk).1

/-! ### The encoding step -/

theorem exec_txstep_early_verdict {c : Nat} {p : Bytes} (h : s.tx.ctx[c]? = some (.enc p)) :
    exec (.txstep c true) s = .refused (.verdictBeforeWrite c) := by
  simp [exec, execTxstep, txstepEvent, h]

theorem anotherWrites_eq_false {ctx : List TxCtx} {c : Nat} (h : ∀ u r, u ≠ c → ctx[u]? ≠ some (.wr r)) :
    anotherWrites ctx c = false := by
  rw [Bool.eq_false_iff]
  intro ha
  obtain ⟨u, r, hu, hw⟩ := anotherWrites_iff.1 ha
  exact h u r hu hw

end Machine

end Sys2Proof

namespace Sys2Proof.Proofs

open Sys2Proof.Machine

/-- Settles O6: words with a reserved field are no instruction's event, so `decode` answers an error; the other kinds are
refused by the meanings. -/
theorem reservedEventsAreRefused : Obligations.ReservedEventsAreRefused := by
  refine ⟨fun s h ws htrace hres => step_of_decode_ne_ok fun r => ?_,
    fun s c n hc => ⟨exec_take_no_consumer hc, exec_takeend_no_consumer hc⟩,
    fun s t p wok ht => ⟨exec_xmit_no_caller ht, exec_txstep_no_caller ht⟩, fun s w hw => ?_,
    fun s c hp => exec_rxstep_named hp, fun s t p ht => exec_txstep_early_verdict ht⟩
  · rw [htrace]
    have hkinds : HeaderReserved h ∨
        (opField h ∈ [0x6, 0xC, 0xF] ∧ ∃ w ∈ ws.take (argField h), bits 31 8 w ≠ 0) := by
      simpa only [HeaderReserved, or_assoc] using hres
    rcases hkinds with hhd | ⟨hop, hw⟩
    · exact decode_ne_ok_of_headerReserved hhd r
    · exact decode_ne_ok_of_payload hop hw r
  · have hillegal : waiterLegal s.ib.cons w = false := by
      rw [Bool.eq_false_iff, ne_eq, waiterLegal_iff]
      rcases hw with ⟨rfl, c, k, hk⟩ | ⟨c, rfl, hk⟩
      · simpa using ⟨c, k, hk⟩
      · simpa using hk
    exact ⟨fun p => exec_pub_illegal p hillegal, fun hp => exec_rxstep_illegal hp hillegal⟩

/-- Settles O32: both publishes have a step exactly under `waiterLegal`, and a publish notifies its choice. -/
theorem waiterChoiceNamesAWaiter : Obligations.WaiterChoiceNamesAWaiter := by
  intro s w
  refine ⟨fun p hp => (exec_pub_next_iff hp).trans waiterLegal_iff,
    fun p hp hpay => (exec_rxstep_publishing_next_iff hp hpay).trans waiterLegal_iff, fun c t h => ?_,
    fun hp hw t h => ?_⟩
  · simp only [exec_next_iff] at h
    obtain ⟨hlegal, hcons⟩ := Effect.notifies h
    rw [hcons]
    exact ⟨notify_self hlegal, fun d hd => notify_other (by simpa using hd.symm)⟩
  · obtain ⟨c, rfl⟩ := Option.ne_none_iff_exists'.1 hw
    obtain ⟨r, hr⟩ := exec_rxstep_named (c := c) hp
    cases hr.symm.trans h

/-- Settles O46: the three outcomes of the encoding step are three effects, told apart by `encode p` and by whether
another caller writes. -/
theorem encodingStepEncodes : Obligations.EncodingStepEncodes := by
  intro s t p ht
  refine ⟨exec_txstep_early_verdict ht, ?_⟩
  cases henc : Config.encode p with
  | formatError => exact (Effect.encodeFails s t p ht henc).exec_eq
  | ok raw =>
    refine ⟨fun halone => ?_, fun u r hu hwr => ?_⟩
    · exact (Effect.encodeAlone s t p raw ht henc (anotherWrites_eq_false halone)).exec_eq
    · exact (Effect.encodeOverlap s t p raw ht henc (anotherWrites_iff.2 ⟨u, r, hu, hwr⟩)).exec_eq

end Sys2Proof.Proofs

/-! PROOFS. The stream grammar (rule R72): what SYNC makes of each part of a group, so that a group emits its one frame,
and that every byte sequence is groups and a tail. -/

namespace Sys2Proof.Machine

variable {flag : Byte} {sy : Sync} {d bs : Bytes}

/-! ### Feeding one part of a group -/

theorem feedAll_append (flag : Byte) (sy : Sync) (as bs : Bytes) :
    sy.feedAll flag (as ++ bs) =
      (((sy.feedAll flag as).1.feedAll flag bs).1,
        (sy.feedAll flag as).2 ++ ((sy.feedAll flag as).1.feedAll flag bs).2) := by
  induction as generalizing sy with
  | nil => rfl
  | cons a as ih => simp only [List.cons_append, feedAll_cons, ih, List.append_assoc]

/-- Two parts of a stream, fed one behind the other. -/
theorem feedAll_append_of_eq {sy' sy'' : Sync} {as bs : Bytes} {fs fs' : List Bytes}
    (has : sy.feedAll flag as = (sy', fs)) (hbs : sy'.feedAll flag bs = (sy'', fs')) :
    sy.feedAll flag (as ++ bs) = (sy'', fs ++ fs') := by
  rw [feedAll_append, has, hbs]

/-- Data bytes are dropped in IDLE while the byte before them is no delimiter. -/
theorem feedAll_dropped (hs : sy.state = .idle) (hp : sy.prev ≠ some flag) (hd : flag ∉ d) :
    ∃ prev, sy.feedAll flag d = ({ state := .idle, prev := prev, buf := sy.buf }, []) := by
  induction d generalizing sy with
  | nil => exact ⟨sy.prev, by rw [feedAll_nil, ← hs]⟩
  | cons b d ih =>
    obtain ⟨hb, hd⟩ := List.ne_and_not_mem_of_not_mem_cons hd
    obtain ⟨prev, hrest⟩ := ih (sy := { state := .idle, prev := some b, buf := sy.buf }) rfl
      (by simpa using hb.symm) hd
    exact ⟨prev, by rw [feedAll_cons, feed_skip hs (.inr hp), hrest]; rfl⟩

/-- A run of delimiters in IDLE is dropped and arms SYNC. -/
theorem feedAll_delimiters (hs : sy.state = .idle) (n : Nat) :
    sy.feedAll flag (List.replicate (n + 1) flag) =
      ({ state := .idle, prev := some flag, buf := sy.buf }, []) := by
  induction n generalizing sy with
  | zero => rw [List.replicate_one, feedAll_cons, feed_skip hs (.inl rfl)]; rfl
  | succ n ih => rw [List.replicate_succ, feedAll_cons, feed_skip hs (.inl rfl), ih rfl]; rfl

/-- Data bytes are collected in RECEIVING. -/
theorem feedAll_collected (hs : sy.state = .receiving) (hd : flag ∉ d) :
    ∃ prev, sy.feedAll flag d = ({ state := .receiving, prev := prev, buf := sy.buf ++ d }, []) := by
  induction d generalizing sy with
  | nil => exact ⟨sy.prev, by rw [feedAll_nil, List.append_nil, ← hs]⟩
  | cons b d ih =>
    obtain ⟨hb, hd⟩ := List.ne_and_not_mem_of_not_mem_cons hd
    obtain ⟨prev, hrest⟩ := ih (sy := { state := .receiving, prev := some b, buf := sy.buf ++ [b] }) rfl hd
    exact ⟨prev, by rw [feedAll_cons, feed_data hs hb.symm, hrest]; simp⟩

/-- Data bytes behind a delimiter start a frame. -/
theorem feedAll_interior (hs : sy.state = .idle) (hp : sy.prev = some flag) (hne : d ≠ []) (hd : flag ∉ d) :
    ∃ prev, sy.feedAll flag d = ({ state := .receiving, prev := prev, buf := [flag] ++ d }, []) := by
  cases d with
  | nil => exact absurd rfl hne
  | cons b d =>
    obtain ⟨hb, hd⟩ := List.ne_and_not_mem_of_not_mem_cons hd
    obtain ⟨prev, hrest⟩ := feedAll_collected (sy := { state := .receiving, prev := some b, buf := [flag, b] }) rfl hd
    exact ⟨prev, by rw [feedAll_cons, feed_start hs hp hb.symm, hrest]; rfl⟩

/-- The closing delimiter emits the frame and resets SYNC. -/
theorem feedAll_close (hs : sy.state = .receiving) : sy.feedAll flag [flag] = (Sync.reset, [sy.buf ++ [flag]]) := by
  rw [feedAll_cons, feed_close hs]
  rfl

/-! ### Groups and the tail -/

theorem reset_prev_ne (flag : Byte) : Sync.reset.prev ≠ some flag := nofun

/-- A group leads from reset to reset and emits its frame. -/
theorem feedAll_group {g : StreamGroup} (h : g.proper flag) :
    Sync.reset.feedAll flag (g.stream flag) = (Sync.reset, [g.frame flag]) := by
  obtain ⟨hdropped, hinterior, hne⟩ := h
  obtain ⟨prev, hx⟩ := feedAll_dropped (sy := Sync.reset) rfl (reset_prev_ne flag) hdropped
  have hmarkers := feedAll_delimiters (flag := flag) (sy := ⟨.idle, prev, Sync.reset.buf⟩) rfl g.markers
  obtain ⟨_, hdata⟩ := feedAll_interior (sy := ⟨.idle, some flag, Sync.reset.buf⟩) rfl rfl hne hinterior
  exact feedAll_append_of_eq hx (feedAll_append_of_eq hmarkers (feedAll_append_of_eq hdata (feedAll_close rfl)))

/-- The tail emits nothing. -/
theorem feedAll_tail {tail : StreamTail} (h : tail.proper flag) :
    (Sync.reset.feedAll flag (tail.stream flag)).2 = [] := by
  obtain ⟨dropped, n, part⟩ := tail
  obtain ⟨hdropped, hpart, hzero⟩ := h
  obtain ⟨prev, hx⟩ := feedAll_dropped (sy := Sync.reset) rfl (reset_prev_ne flag) hdropped
  cases n with
  | zero =>
    obtain rfl : part = [] := hzero rfl
    simp [StreamTail.stream, hx]
  | succ n =>
    have hmarkers := feedAll_delimiters (flag := flag) (sy := ⟨.idle, prev, Sync.reset.buf⟩) rfl n
    by_cases hne : part = []
    · subst hne
      exact congrArg Prod.snd (feedAll_append_of_eq hx (feedAll_append_of_eq hmarkers (feedAll_nil flag _)))
    · obtain ⟨_, hdata⟩ := feedAll_interior (sy := ⟨.idle, some flag, Sync.reset.buf⟩) rfl rfl hne hpart
      exact congrArg Prod.snd (feedAll_append_of_eq hx (feedAll_append_of_eq hmarkers hdata))

/-- From reset to reset, a frame for each group. -/
theorem feedAll_groups {gs : List StreamGroup} (h : ∀ g ∈ gs, g.proper flag) :
    Sync.reset.feedAll flag (gs.map (StreamGroup.stream flag)).flatten =
      (Sync.reset, gs.map (StreamGroup.frame flag)) := by
  induction gs with
  | nil => rfl
  | cons g gs ih =>
    rw [List.forall_mem_cons] at h
    exact feedAll_append_of_eq (feedAll_group h.1) (ih h.2)

/-! ### Every byte sequence is a stream -/

/-- `bs` is groups and a tail. -/
def IsStream (flag : Byte) (bs : Bytes) : Prop :=
  ∃ (gs : List StreamGroup) (tail : StreamTail), (∀ g ∈ gs, g.proper flag) ∧ tail.proper flag ∧
    bs = (gs.map (StreamGroup.stream flag)).flatten ++ tail.stream flag

/-- One more byte behind a tail lengthens the tail, or closes its partial frame and so makes it a group. -/
theorem tail_append_byte {tail : StreamTail} (h : tail.proper flag) (b : Byte) :
    (∃ tail' : StreamTail, tail'.proper flag ∧ tail.stream flag ++ [b] = tail'.stream flag) ∨
    (∃ g : StreamGroup, g.proper flag ∧ tail.stream flag ++ [b] = g.stream flag) := by
  obtain ⟨dropped, n, part⟩ := tail
  obtain ⟨hdropped, hpart, hzero⟩ := h
  simp only at hdropped hpart hzero
  by_cases hb : b = flag
  · subst hb
    by_cases hne : part = []
    · subst hne
      refine .inl ⟨⟨dropped, n + 1, []⟩, ⟨hdropped, hpart, nofun⟩, ?_⟩
      simp [StreamTail.stream, List.replicate_succ']
    · cases n with
      | zero => exact absurd (hzero rfl) hne
      | succ n =>
        refine .inr ⟨⟨dropped, n, part⟩, ⟨hdropped, hpart, hne⟩, ?_⟩
        simp [StreamTail.stream, StreamGroup.stream]
  · have hflag : flag ∉ [b] := by simpa using Ne.symm hb
    cases n with
    | zero =>
      obtain rfl : part = [] := hzero rfl
      refine .inl ⟨⟨dropped ++ [b], 0, []⟩, ⟨?_, hpart, fun _ => rfl⟩, by simp [StreamTail.stream]⟩
      exact List.not_mem_append hdropped hflag
    | succ n =>
      refine .inl ⟨⟨dropped, n + 1, part ++ [b]⟩, ⟨hdropped, ?_, nofun⟩, by simp [StreamTail.stream]⟩
      exact List.not_mem_append hpart hflag

theorem isStream_nil (flag : Byte) : IsStream flag [] :=
  ⟨[], ⟨[], 0, []⟩, List.forall_mem_nil _, ⟨List.not_mem_nil, List.not_mem_nil, fun _ => rfl⟩, rfl⟩

theorem IsStream.append_byte (h : IsStream flag bs) (b : Byte) : IsStream flag (bs ++ [b]) := by
  obtain ⟨gs, tail, hgs, htail, rfl⟩ := h
  rcases tail_append_byte htail b with ⟨tail', htail', heq⟩ | ⟨g, hg, heq⟩
  · exact ⟨gs, tail', hgs, htail', by rw [List.append_assoc, heq]⟩
  · refine ⟨gs ++ [g], ⟨[], 0, []⟩, ?_, ⟨List.not_mem_nil, List.not_mem_nil, fun _ => rfl⟩, ?_⟩
    · exact List.forall_mem_append.2 ⟨hgs, List.forall_mem_singleton.2 hg⟩
    · rw [List.append_assoc, heq]
      simp [StreamTail.stream]

theorem isStream (flag : Byte) (bs : Bytes) : IsStream flag bs := by
  induction bs using List.reverseRecOn with
  | nil => exact isStream_nil flag
  | append_singleton bs b ih => exact ih.append_byte b

end Sys2Proof.Machine

namespace Sys2Proof.Proofs

open Sys2Proof.Machine

/-- Settles O16: each group leads from reset to reset with its frame, and a stream grows byte by byte. -/
theorem streamGrammarGivesTheFrames : Obligations.StreamGrammarGivesTheFrames := by
  intro flag
  refine ⟨fun gs tail hgs htail => ?_, isStream flag⟩
  rw [feedAll_append, feedAll_groups hgs, feedAll_tail htail, List.append_nil]

end Sys2Proof.Proofs

/-! PROOFS. The feed function and FEED (rules R100 to R109): what `sy.prev` is after a feed, the shape of every frame emitted
from reset, and streams of two frames. -/

namespace Sys2Proof.Machine

variable {flag : Byte} {sy : Sync} {s : State} {a b bs f : Bytes}

/-! ### One byte -/

/-- Rule R105: only a feed that emits a frame leaves no previous byte. -/
theorem feed_prev (flag b : Byte) (sy : Sync) :
    (sy.feed flag b).1.prev = if (sy.feed flag b).2 = none then some b else none := by
  obtain ⟨-, -, -, h⟩ | ⟨-, -, h⟩ | ⟨-, -, h⟩ | ⟨-, -, h⟩ := feed_cases flag b sy <;> rw [h] <;> rfl

theorem exec_feed_refused (b : Byte) (hp : s.rx.phase ≠ .off) : exec (.feed b) s = .refused .phaseNotOff := if_neg hp

/-! ### Raw frames -/

theorem RawFrame.three_le_length (h : RawFrame flag f) : 3 ≤ f.length := by
  obtain ⟨d, hne, -, rfl⟩ := h
  have := List.length_pos_iff.2 hne
  simp only [List.length_append, List.length_singleton]
  omega

theorem RawFrame.getElem?_zero (h : RawFrame flag f) : f[0]? = some flag := by
  obtain ⟨d, -, -, rfl⟩ := h
  rfl

theorem RawFrame.getElem?_last (h : RawFrame flag f) : f[f.length - 1]? = some flag := by
  obtain ⟨d, -, -, rfl⟩ := h
  rw [← List.getLast?_eq_getElem?, List.getLast?_concat]

theorem RawFrame.getElem?_interior_ne (h : RawFrame flag f) {i : Nat} (hfirst : 0 < i) (hlast : i < f.length - 1) :
    f[i]? ≠ some flag := by
  obtain ⟨d, -, hd, rfl⟩ := h
  obtain ⟨j, rfl⟩ := Nat.exists_eq_succ_of_ne_zero hfirst.ne'
  have hj : j < d.length := by simpa using hlast
  have hinner : ([flag] ++ d ++ [flag])[j + 1]? = d[j]? := by simp [List.getElem?_append_left hj]
  rw [hinner]
  exact fun hmem => hd (List.mem_of_getElem? hmem)

/-- Every frame emitted from a state that meets rule R24 is a raw frame. -/
theorem SyncInv.rawFrame_of_mem_feedAll (h : SyncInv flag sy) (hf : f ∈ (sy.feedAll flag bs).2) : RawFrame flag f := by
  induction bs generalizing sy with
  | nil => exact absurd hf List.not_mem_nil
  | cons b bs ih =>
    obtain ⟨hinv, hraw⟩ := h.feed (b := b) rfl
    rw [feedAll_cons, List.mem_append, Option.mem_toList] at hf
    rcases hf with hemit | hlater
    · exact hraw f hemit
    · exact ih hinv hlater

/-! ### Two frames -/

theorem feedAll_frame (hne : a ≠ []) (ha : flag ∉ a) :
    Sync.reset.feedAll flag ([flag] ++ a ++ [flag]) = (Sync.reset, [[flag] ++ a ++ [flag]]) :=
  feedAll_group (g := ⟨[], 0, a⟩) ⟨List.not_mem_nil, ha, hne⟩

/-- From reset, data bytes are dropped, and the delimiter behind them arms SYNC. -/
theorem feedAll_dropped_delimiter (hb : flag ∉ b) :
    Sync.reset.feedAll flag (b ++ [flag]) = ({ state := .idle, prev := some flag, buf := [] }, []) := by
  obtain ⟨prev, hdropped⟩ := feedAll_dropped (sy := Sync.reset) rfl (reset_prev_ne flag) hb
  exact feedAll_append_of_eq hdropped (feedAll_delimiters rfl 0)

end Sys2Proof.Machine

namespace Sys2Proof.Proofs

open Sys2Proof.Machine

/-- Settles O13: reset meets the synchronizer invariant, from which every emitted frame is a raw frame. -/
theorem everyEmittedFrameHasRawFrameShape : Obligations.EveryEmittedFrameHasRawFrameShape := by
  intro flag bs f hf
  have hraw : RawFrame flag f := (syncInv_idle flag none).rawFrame_of_mem_feedAll hf
  exact ⟨hraw.three_le_length, hraw.getElem?_zero, hraw.getElem?_last, fun _ => hraw.getElem?_interior_ne⟩

/-- Settles O14: it is the run of idle markers of the stream grammar. -/
theorem delimiterRunEmitsNothing : Obligations.DelimiterRunEmitsNothing := by
  intro flag prev n hn
  obtain ⟨m, rfl⟩ := Nat.exists_eq_add_of_le' hn
  exact feedAll_delimiters rfl m

/-- Settles O15: the first frame leads back to reset, where `b` without its own delimiter is dropped. -/
theorem framesCannotShareADelimiter : Obligations.FramesCannotShareADelimiter := by
  intro flag a b ha hane hb hbne
  have hframe := feedAll_frame hane ha
  constructor
  · simpa using feedAll_append_of_eq hframe (feedAll_dropped_delimiter hb)
  · simpa [Sync.reset] using feedAll_append_of_eq hframe (feedAll_frame hbne hb)

/-- Settles O10: one lemma per case of `feed`. -/
theorem feedFollowsItsFourCases : Obligations.FeedFollowsItsFourCases := by
  intro flag sy b
  exact ⟨feed_start, feed_data, fun hs hb => hb ▸ feed_close hs, feed_skip, feed_prev flag b sy⟩

/-- Settles O11: FEED's effect is exact, and outside OFF it has none. -/
theorem feedEventFeedsOneByte : Obligations.FeedEventFeedsOneByte :=
  fun s b => ⟨fun hp => (Effect.feed s b hp).exec_eq, exec_feed_refused b⟩

end Sys2Proof.Proofs

/-! PROOFS. The receive sequencer (rules R120 to R127, R132, R133): the moves of the loop along the phase graph, its
stillness in EXITED, a whole frame fed from one chunk, what the receive labels leave alone, and each label in its phase and
outside it. -/

namespace Sys2Proof.Machine

variable {i : Instr} {s t : State}

/-! ### The phase graph (rule R120) -/

/-- NEXT of rule R120 is along an edge where both of its branches are edges. -/
theorem phaseEdge_phaseAfterFrame {p : Phase} (hdone : PhaseEdge i p .top) (hon : PhaseEdge i p .feeding)
    (chunk : Bytes) : PhaseEdge i p (phaseAfterFrame chunk) := by
  cases chunk with
  | nil => exact hdone
  | cons => exact hon

/-! ### A frame in one chunk (rule R133) -/

/-- A run goes on behind the effect of its first label. -/
theorem Effect.runInstrs_cons_eq (h : Effect i s t) (is : List Instr) : runInstrs (i :: is) s = runInstrs is t := by
  simp only [runInstrs, h.exec_eq]

/-- A byte that emits nothing, in front of bytes that emit nothing. -/
theorem feedAll_cons_silent {flag b : Byte} {bs : Bytes} {sy sy' : Sync}
    (h : sy.feedAll flag (b :: bs) = (sy', [])) :
    ∃ sy₁, sy.feed flag b = (sy₁, none) ∧ sy₁.feedAll flag bs = (sy', []) := by
  rw [feedAll_cons, Prod.mk.injEq, List.append_eq_nil_iff, Option.toList_eq_nil_iff] at h
  obtain ⟨hsy, hnone, hnil⟩ := h
  exact ⟨_, Prod.ext rfl hnone, Prod.ext hsy hnil⟩

/-- While the front of the chunk closes no frame, one RXSTEP per byte is `feedAll`, and FEEDING stays for what is
behind it. -/
theorem runInstrs_feeding {bs rest : Bytes} {sy : Sync} (hp : s.rx.phase = .feeding) (hc : s.rx.chunk = bs ++ rest)
    (hrest : rest ≠ []) (hfeed : s.sy.feedAll Config.flag bs = (sy, [])) (is : List Instr) :
    runInstrs (List.replicate bs.length (.rxstep none) ++ is) s =
      runInstrs is { s with sy := sy, rx := { s.rx with phase := .feeding, chunk := rest } } := by
  induction bs generalizing s with
  | nil =>
    obtain rfl : s.sy = sy := congrArg Prod.fst hfeed
    obtain rfl : s.rx.chunk = rest := hc
    rw [← hp]
    rfl
  | cons b bs ih =>
    obtain ⟨sy₁, hb, hbs⟩ := feedAll_cons_silent hfeed
    have hmore : phaseAfterFrame (bs ++ rest) = .feeding := if_neg (by simp [hrest])
    exact ((Effect.feedOpen s b (bs ++ rest) sy₁ hp hc hb).runInstrs_cons_eq _).trans (ih hmore rfl hbs)

/-- A delimiter and the interior of a frame put an idle SYNC into RECEIVING, with nothing emitted. -/
theorem feedAll_opening {flag : Byte} {sy : Sync} {d : Bytes} (hs : sy.state = .idle) (hne : d ≠ []) (hd : flag ∉ d) :
    ∃ prev, sy.feedAll flag ([flag] ++ d) = ({ state := .receiving, prev := prev, buf := [flag] ++ d }, []) := by
  obtain ⟨prev, hdata⟩ := feedAll_interior (sy := ⟨.idle, some flag, sy.buf⟩) rfl rfl hne hd
  exact ⟨prev, feedAll_append_of_eq (feedAll_delimiters hs 0) hdata⟩

/-! ### Refusals (rules R82, R122, R123, R127) -/

theorem exec_rxdata_refused (bs : Bytes) (hp : s.rx.phase ≠ .poll) : exec (.rxdata bs) s = .refused .phaseNotPoll :=
  if_neg hp

theorem exec_rxerr_refused (hp : s.rx.phase ≠ .poll) : exec .rxerr s = .refused .phaseNotPoll := if_neg hp

/-- Where the loop steps and does not publish, RXSTEP may name no consumer. -/
theorem exec_rxstep_waiterChoice (hp : s.rx.phase = .top ∨ s.rx.phase = .feeding ∨ s.rx.phase = .decoding) (c : Nat) :
    exec (.rxstep (some c)) s = .refused (.waiterChoice (some c)) := by
  rcases hp with hp | hp | hp <;> simp [exec, execRxstep, rxstepEvent, hp]

theorem exec_rxstep_loopNotStepping (hp : s.rx.phase = .off ∨ s.rx.phase = .poll ∨ s.rx.phase = .exited)
    (w : Option Nat) : exec (.rxstep w) s = .refused .loopNotStepping := by
  rcases hp with hp | hp | hp <;> simp [exec, execRxstep, rxstepEvent, hp]

end Sys2Proof.Machine

namespace Sys2Proof.Proofs

open Sys2Proof.Machine

/-- Settles O26: each of the loop's effects is one edge, NEXT being two. -/
theorem phaseMovesOnlyAlongTheGraph : Obligations.PhaseMovesOnlyAlongTheGraph := by
  intro i s t h
  cases exec_effect h with
  | start _ hp => exact .inl (hp ▸ .start)
  | rxdataEmpty _ hp => exact .inl (hp ▸ .pollEmpty)
  | rxdata _ bs hp hbs => exact .inl (hp ▸ .pollChunk bs hbs)
  | rxerr _ hp => exact .inl (hp ▸ .pollError)
  | topStop _ hp => exact .inl (hp ▸ .loopExit)
  | topGo _ hp => exact .inl (hp ▸ .loopPoll)
  | feedOpen _ _ rest _ hp => exact .inl (hp ▸ phaseEdge_phaseAfterFrame .feedDone .feedOn rest)
  | feedClosed _ _ _ _ _ hp => exact .inl (hp ▸ .frameClosed)
  | decodeOk _ _ _ hp => exact .inl (hp ▸ .decodeOk)
  | decodeFails _ _ hp => exact .inl (hp ▸ phaseEdge_phaseAfterFrame .decodeBadDone .decodeBadOn s.rx.chunk)
  | publishing _ w _ hp => exact .inl (hp ▸ phaseEdge_phaseAfterFrame (.publishDone w) (.publishOn w) s.rx.chunk)
  | _ => exact .inr ⟨rfl, nofun, nofun, nofun, nofun⟩

/-- Settles O29: each effect that moves the receive side has a phase other than EXITED as its condition. -/
theorem afterExitTheReceiveSideIsStill : Obligations.AfterExitTheReceiveSideIsStill := by
  intro i s t hs h
  cases exec_effect h with
  | start _ hp | rxdataEmpty _ hp | rxdata _ _ hp | rxerr _ hp | topStop _ hp | topGo _ hp | feedOpen _ _ _ _ hp
  | feedClosed _ _ _ _ _ hp | decodeOk _ _ _ hp | decodeFails _ _ hp | publishing _ _ _ hp | feed _ _ hp
  | pub _ _ _ hp => cases hp.symm.trans hs
  | clear => exact ⟨rfl, rfl, absurd rfl, .inl rfl⟩
  | takeFrame _ c | takeNothing _ c => exact ⟨rfl, rfl, fun _ => ⟨rfl, rfl, rfl⟩, .inr ⟨c, rfl⟩⟩
  | _ => exact ⟨rfl, rfl, fun _ => ⟨rfl, rfl, rfl⟩, .inl rfl⟩

/-- Settles O30: RXDATA enters FEEDING, the bytes up to the closing delimiter emit nothing, and that delimiter closes the
frame. -/
theorem wholeFrameInOneChunkReachesDecoding : Obligations.WholeFrameInOneChunkReachesDecoding := by
  intro s d hp hs hne hd
  obtain ⟨prev, hopening⟩ := feedAll_opening hs hne hd
  have hsteps : List.replicate (d.length + 2) (Instr.rxstep none) =
      List.replicate ([Config.flag] ++ d).length (.rxstep none) ++ [.rxstep none] := by
    rw [List.replicate_succ', List.length_append, List.length_singleton, Nat.add_comm]
  have hfront := runInstrs_feeding (s := { s with rx := { s.rx with phase := .feeding, chunk := _ } }) rfl rfl
    (List.cons_ne_nil Config.flag []) hopening [.rxstep none]
  rw [(Effect.rxdata s _ hp (by simp)).runInstrs_cons_eq, hsteps]
  exact hfront.trans
    ((Effect.feedClosed _ Config.flag [] _ _ rfl rfl (feed_close rfl)).runInstrs_cons_eq [])

/-- Settles O58: each effect of the three labels leaves the transmit side alone, and the clauses on `sy`, `ib` and the
responses name the phase whose effect is the exception. -/
theorem receiveLabelsFrame : Obligations.ReceiveLabelsFrame := by
  intro i s t hi h
  cases exec_effect h with
  | rxdataEmpty | rxdata | topGo =>
    exact ⟨rfl, rfl, fun _ => rfl, rfl, rfl, rfl, fun _ => rfl, fun _ => rfl, fun _ _ => rfl, .inl rfl⟩
  | rxerr | topStop =>
    exact ⟨rfl, rfl, fun _ => rfl, rfl, rfl, rfl, fun _ => rfl, fun _ => rfl, fun _ _ => rfl, .inr (.inl rfl)⟩
  | feedOpen _ _ _ _ hp | feedClosed _ _ _ _ _ hp =>
    exact ⟨rfl, rfl, fun _ => rfl, rfl, rfl, rfl, absurd hp, fun _ => rfl, fun _ _ => rfl, .inl rfl⟩
  | decodeOk _ f _ hp hf | decodeFails _ f hp hf =>
    exact ⟨rfl, rfl, fun _ => rfl, rfl, rfl, rfl, fun _ => rfl, fun _ => rfl, fun _ _ => rfl,
      .inr (.inr ⟨f, hp, hf, rfl⟩)⟩
  | publishing _ w _ hp =>
    exact ⟨rfl, rfl, fun _ => rfl, rfl, rfl, rfl, fun _ => rfl, absurd hp,
      fun c hc => notify_other (mt (congrArg Instr.rxstep) hc), .inl rfl⟩
  | _ => simp [Instr.agents] at hi

/-- Settles O19: the two effects of the stop test are exact, and a choice that names a consumer is refused. -/
theorem topStepTestsStop : Obligations.TopStepTestsStop := by
  intro s hp
  exact ⟨fun hstop => (Effect.topStop s hp hstop).exec_eq, fun hgo => (Effect.topGo s hp hgo).exec_eq,
    exec_rxstep_waiterChoice (.inl hp)⟩

/-- Settles O20: the two effects of RXDATA are exact, and outside POLL it has none. -/
theorem rxdataTakesTheChunk : Obligations.RxdataTakesTheChunk := by
  intro s bs
  refine ⟨?_, fun hp hbs => (Effect.rxdata s bs hp hbs).exec_eq, exec_rxdata_refused bs⟩
  rintro hp rfl
  exact (Effect.rxdataEmpty s hp).exec_eq

/-- Settles O21: RXERR's effect is exact, and outside POLL it has none. -/
theorem rxerrEndsTheLoop : Obligations.RxerrEndsTheLoop :=
  fun s => ⟨fun hp => (Effect.rxerr s hp).exec_eq, exec_rxerr_refused⟩

/-- Settles O22: whether the feed emits a frame tells which of the two effects in FEEDING it is. -/
theorem feedingStepFeedsOneByte : Obligations.FeedingStepFeedsOneByte := by
  intro s b rest hp hc
  refine ⟨?_, exec_rxstep_waiterChoice (.inr (.inl hp))⟩
  rcases hr : s.sy.feed Config.flag b with ⟨sy, _ | f⟩
  · exact (Effect.feedOpen s b rest sy hp hc hr).exec_eq
  · exact (Effect.feedClosed s b rest f sy hp hc hr).exec_eq

/-- Settles O23: the answer of `decode` tells which of the two effects in DECODING it is. -/
theorem decodingStepCountsTheOutcome : Obligations.DecodingStepCountsTheOutcome := by
  intro s f hp hf
  refine ⟨?_, exec_rxstep_waiterChoice (.inr (.inr hp))⟩
  cases hd : Config.decode f with
  | ok p => exact (Effect.decodeOk s f p hp hf hd).exec_eq
  | formatError => exact (Effect.decodeFails s f hp hf hd).exec_eq

/-- Settles O24: one effect publishes, with no choice where nobody waits and with any consumer that waits. -/
theorem publishingStepPublishes : Obligations.PublishingStepPublishes := by
  intro s p hp hpay
  refine ⟨fun hnone => ?_, fun c k hc => ?_⟩
  · exact (Effect.publishing s none p hp (waiterLegal_none_iff.2 hnone) hpay).exec_eq
  · exact (Effect.publishing s (some c) p hp (waiterLegal_some_iff.2 ⟨k, hc⟩) hpay).exec_eq

/-- Settles O25: in these phases RXSTEP looks at nothing else. -/
theorem rxstepIsRefusedOutsideItsPhases : Obligations.RxstepIsRefusedOutsideItsPhases :=
  fun _ w hp => exec_rxstep_loopNotStepping hp w

end Sys2Proof.Proofs

/-! PROOFS. The inbox (rules R140 to R148, R152): what PUB, TAKE, TAKEEND and TICK do and refuse and what they leave alone,
how a wait ends, and that a take returns the latest frame published. -/

namespace Sys2Proof.Machine

variable {i : Instr} {s t : State} {c : Nat}

/-! ### The slot over a quiet run (rule R148) -/

/-- Whichever label publishes, the slot holds the frame that it publishes. -/
theorem Effect.slot_of_publishes {p : Bytes} (h : Effect i s t) (hp : publishes i s = some p) :
    t.ib.slot = some p := by
  cases i with
  | pub => exact h.slot_of_pub.trans hp
  | rxstep =>
    obtain ⟨hphase, hpay⟩ := Option.ite_none_right_eq_some.1 hp
    exact h.slot_of_publishing hphase hpay
  | _ => cases hp

theorem Effect.slot_of_quiet (h : Effect i s t) (hp : publishes i s = none) (htake : ∀ c, i ≠ .takeend c) :
    t.ib.slot = s.ib.slot := by
  cases h with
  | pub => cases hp
  | publishing _ _ _ hphase _ hpay => simp [publishes, hphase, hpay] at hp
  | takeFrame _ c | takeNothing _ c => exact absurd rfl (htake c)
  | _ => rfl

theorem QuietRun.slot_eq (h : QuietRun s t) : t.ib.slot = s.ib.slot := by
  induction h with
  | here => rfl
  | step _ _ _ _ hp htake hexec _ ih => exact ih.trans ((exec_effect hexec).slot_of_quiet hp htake)

/-- TAKEEND where the slot holds a frame (rule R144). -/
theorem Effect.out_of_takeend {p : Bytes} (h : Effect (.takeend c) s t) (hslot : s.ib.slot = some p) :
    t.out = s.out ++ [.takeR c p p.length] := by
  cases h with
  | takeFrame _ _ q _ hq =>
    obtain rfl : q = p := Option.some.inj (hq.symm.trans hslot)
    rfl
  | takeNothing _ _ _ hnone => cases hnone.symm.trans hslot

/-! ### The consumers -/

/-- A write to a consumer that is in another wait state is a write to another consumer. -/
theorem getElem?_set_of_getElem?_ne {cons : List Cons} {k : Cons} {d : Nat} (hc : cons[c]? = some k)
    (hd : cons[d]? ≠ some k) (k' : Cons) : (cons.set d k')[c]? = some k := by
  rw [List.getElem?_set_ne (by rintro rfl; exact hd hc), hc]

theorem getElem?_map_tick {cons : List Cons} {k : Cons} (hc : cons[c]? = some k) :
    (cons.map Cons.tick)[c]? = some k.tick := by
  rw [List.getElem?_map, hc, Option.map_some]

/-- A publish leaves a consumer as it is, or notifies it by name. -/
theorem notify_cases {cons : List Cons} {w : Option Nat} (hw : waiterLegal cons w = true) (c : Nat) :
    (notify cons w)[c]? = cons[c]? ∨ ((notify cons w)[c]? = some .notified ∧ w = some c) := by
  by_cases hwc : w = some c
  · subst hwc
    exact .inr ⟨notify_self hw, rfl⟩
  · exact .inl (notify_other hwc)

/-! ### Refusals (rules R141, R142, R144) -/

theorem exec_pub_refused (w : Option Nat) (p : Bytes) (hp : s.rx.phase ≠ .off) :
    exec (.pub w p) s = .refused .phaseNotOff := if_neg hp

/-- TAKE on a consumer that is not idle. -/
theorem exec_take_busy {k : Cons} (hc : s.ib.cons[c]? = some k) (hk : k ≠ .idle) (n : Nat) :
    exec (.take c n) s = .refused (.consumerBusy c) := by
  cases k with
  | idle => exact absurd rfl hk
  | wait | notified => simp only [exec, execTake, hc]

theorem exec_takeend_waiting {k : Nat} (hc : s.ib.cons[c]? = some (.wait (k + 1))) :
    exec (.takeend c) s = .refused (.consumerWaiting c) := by
  simp only [exec, execTakeend, hc]

theorem exec_takeend_idle (hc : s.ib.cons[c]? = some .idle) : exec (.takeend c) s = .refused (.consumerIdle c) := by
  simp only [exec, execTakeend, hc]

end Sys2Proof.Machine

namespace Sys2Proof.Proofs

open Sys2Proof.Machine

/-- Settles O36: the second publish overwrites the slot, whatever the first left there; the quiet run behind it leaves the
slot alone, and TAKEEND responds what it finds. -/
theorem takeReturnsTheLatestPublish : Obligations.TakeReturnsTheLatestPublish := by
  intro s₁ s₂ s₃ s₄ s₅ s₆ i j a b c _ _ _ hpub hexec hquiet htake
  have hslot : s₅.ib.slot = some b := hquiet.slot_eq.trans ((exec_effect hexec).slot_of_publishes hpub)
  have heff : Effect (.takeend c) s₅ s₆ := exec_effect htake
  exact ⟨heff.out_of_takeend hslot, heff.slot_of_takeend⟩

/-- Settles O37: a take writes to an idle, notified or timed-out consumer, so not to this one; what is left is a tick and
the two publishes. -/
theorem waitEndsOnlyByTickOrNotify : Obligations.WaitEndsOnlyByTickOrNotify := by
  intro i s t c k hc h
  cases exec_effect h with
  | tick => exact .inr (.inl ⟨rfl, getElem?_map_tick hc⟩)
  | take _ d _ hd => exact .inl (getElem?_set_of_getElem?_ne hc (by simp [hd]) _)
  | takeFrame _ d _ hd | takeNothing _ d hd =>
    exact .inl (getElem?_set_of_getElem?_ne hc (by rcases hd with hd | hd <;> simp [hd]) _)
  | publishing _ w _ _ hw =>
    rcases notify_cases hw c with hsame | ⟨hnotified, rfl⟩
    · exact .inl (hsame.trans hc)
    · exact .inr (.inr ⟨hnotified, .inl rfl⟩)
  | pub _ w p _ hw =>
    rcases notify_cases hw c with hsame | ⟨hnotified, rfl⟩
    · exact .inl (hsame.trans hc)
    · exact .inr (.inr ⟨hnotified, .inr ⟨p, rfl⟩⟩)
  | _ => exact .inl hc

/-- Settles O57: the effects of the three labels write the inbox and, for TAKEEND, the responses; a take writes the one
consumer that it names. -/
theorem mailboxLabelsFrame : Obligations.MailboxLabelsFrame := by
  intro i s t c n hi h
  have hother (k : Cons) (d : Nat) (hd : d ≠ c) : (s.ib.cons.set c k)[d]? = s.ib.cons[d]? :=
    List.getElem?_set_ne hd.symm
  rcases hi with rfl | rfl | rfl <;> cases exec_effect h
  case take => exact ⟨rfl, rfl, rfl, rfl, rfl, rfl, fun _ => rfl, fun _ => hother _, fun _ => ⟨rfl, rfl⟩⟩
  case takeFrame | takeNothing =>
    exact ⟨rfl, rfl, rfl, rfl, rfl, rfl, fun _ => rfl, fun _ => hother _, absurd rfl⟩
  case tick => exact ⟨rfl, rfl, rfl, rfl, rfl, rfl, fun _ => rfl, absurd rfl, fun _ => ⟨rfl, rfl⟩⟩

/-- Settles O31: PUB's effect is exact, with no choice where nobody waits and with any consumer that waits, and outside
OFF it has none. -/
theorem pubPublishesWhileNoLoopExists : Obligations.PubPublishesWhileNoLoopExists := by
  intro s p
  refine ⟨fun hp hnone => ?_, fun hp c k hc => ?_, fun hp w => exec_pub_refused w p hp⟩
  · exact (Effect.pub s none p hp (waiterLegal_none_iff.2 hnone)).exec_eq
  · exact (Effect.pub s (some c) p hp (waiterLegal_some_iff.2 ⟨k, hc⟩)).exec_eq

/-- Settles O33: TAKE's effect is exact on an idle consumer, and on any other it has none. -/
theorem takeBeginsTheWait : Obligations.TakeBeginsTheWait :=
  fun s c n => ⟨fun hc => (Effect.take s c n hc).exec_eq, fun _ hc => exec_take_busy hc nofun n,
    fun hc => exec_take_busy hc nofun n⟩

/-- Settles O34: TICK's effect maps `Cons.tick` over the consumers. -/
theorem tickCountsEveryWaiterDown : Obligations.TickCountsEveryWaiterDown :=
  fun s => ⟨s.ib.cons.map Cons.tick, (Effect.tick s).exec_eq, (Effect.tick s).cons_length,
    fun _ _ => getElem?_map_tick, fun _ => getElem?_map_tick, fun _ => getElem?_map_tick,
    fun _ => getElem?_map_tick⟩

/-- Settles O35: whether the slot is empty tells which of TAKEEND's two effects it is, and on a consumer that is idle or
still counts down it has none. -/
theorem takeendReadsAndClearsTheSlot : Obligations.TakeendReadsAndClearsTheSlot := by
  refine fun s c => ⟨fun hc => ⟨fun p hp => (Effect.takeFrame s c p hc hp).exec_eq, fun hnone => ?_⟩,
    fun _ => exec_takeend_waiting, exec_takeend_idle⟩
  simp only [(Effect.takeNothing s c hc hnone).exec_eq, hnone]

end Sys2Proof.Proofs

/-! PROOFS. STATS (rules R33, R161 to R166) and the host's labels: what a label does to the counters, that only SNAP
reads them, and what START, STOP, CLEAR, SNAP and ALIVE leave alone. -/

namespace Sys2Proof.Machine

variable {i : Instr} {s t : State}

/-! ### The counters over a step (rules R33, R165) -/

theorem get_increment (st : Stats) (X Y : Counter) :
    (st.increment X).get Y = st.get Y + if X = Y then 1 else 0 := by
  cases X <;> cases Y <;> rfl

/-- A label leaves the counters alone, increments one, or is CLEAR. -/
theorem Effect.counters_cases (h : Effect i s t) :
    t.st = s.st ∨ (∃ X, t.st = s.st.increment X) ∨ (i = .clear ∧ t.st = Stats.zero) := by
  cases h with
  | clear => exact .inr (.inr ⟨rfl, rfl⟩)
  | feedClosed => exact .inr (.inl ⟨.rxTotal, rfl⟩)
  | decodeOk => exact .inr (.inl ⟨.rxGood, rfl⟩)
  | decodeFails => exact .inr (.inl ⟨.rxBad, rfl⟩)
  | xmit => exact .inr (.inl ⟨.txTotal, rfl⟩)
  | writeOk => exact .inr (.inl ⟨.txGood, rfl⟩)
  | encodeFails | writeFails => exact .inr (.inl ⟨.txBad, rfl⟩)
  | _ => exact .inl rfl

/-- A label other than CLEAR decreases no counter. -/
theorem Effect.get_le (h : Effect i s t) (hi : i ≠ .clear) (Y : Counter) : s.st.get Y ≤ t.st.get Y := by
  rcases h.counters_cases with hst | ⟨X, hst⟩ | ⟨hclear, -⟩
  · exact (congrArg (Stats.get · Y) hst).ge
  · rw [hst, get_increment]
    exact Nat.le_add_right _ _
  · exact absurd hclear hi

theorem runInstrs_get_le {is : List Instr} (his : .clear ∉ is) (hrun : runInstrs is s = some t) (Y : Counter) :
    s.st.get Y ≤ t.st.get Y :=
  runInstrs_keeps (P := fun u => s.st.get Y ≤ u.st.get Y)
    (fun _ hi _ _ heff hle => hle.trans (heff.get_le (ne_of_mem_of_not_mem hi his) Y)) hrun le_rfl

/-! ### The counters are not read (rule R166) -/

/-- With other counters a label has the same effect on all else; on the counters, it is again to leave them alone, to
increment the same one, or CLEAR's. -/
theorem Effect.withCounters (h : Effect i s t) (hi : i ≠ .snap) (st : Stats) :
    ∃ st', Effect i { s with st := st } { t with st := st' } := by
  cases h with
  | snap => exact absurd rfl hi
  | clear => exact ⟨Stats.zero, .clear _⟩
  | feedClosed _ b rest f sy hp hc hf => exact ⟨st.increment .rxTotal, .feedClosed _ b rest f sy hp hc hf⟩
  | decodeOk _ f p hp hr hd => exact ⟨st.increment .rxGood, .decodeOk _ f p hp hr hd⟩
  | decodeFails _ f hp hr hd => exact ⟨st.increment .rxBad, .decodeFails _ f hp hr hd⟩
  | xmit _ c p hc => exact ⟨st.increment .txTotal, .xmit _ c p hc⟩
  | writeOk _ c raw hc => exact ⟨st.increment .txGood, .writeOk _ c raw hc⟩
  | encodeFails _ c p hc he => exact ⟨st.increment .txBad, .encodeFails _ c p hc he⟩
  | writeFails _ c raw hc => exact ⟨st.increment .txBad, .writeFails _ c raw hc⟩
  | _ => exact ⟨st, by constructor <;> assumption⟩

end Sys2Proof.Machine

namespace Sys2Proof.Proofs

open Sys2Proof.Machine

/-- Settles O42: along the run each label but CLEAR leaves a counter as it is or increments it. -/
theorem countersNeverDecreaseBetweenClears : Obligations.CountersNeverDecreaseBetweenClears := by
  intro is s t his hrun
  have hle : ∀ X, s.st.get X ≤ t.st.get X := runInstrs_get_le his hrun
  exact ⟨hle .txTotal, hle .txGood, hle .txBad, hle .rxTotal, hle .rxGood, hle .rxBad⟩

/-- Settles O44: no effect but SNAP's has a counter in its condition or in what it writes outside the counters. -/
theorem countersFeedNothingBack : Obligations.CountersFeedNothingBack := by
  intro i s t st hi h
  obtain ⟨st', heff⟩ := (exec_effect h).withCounters hi st
  exact ⟨st', heff.exec_eq⟩

/-- Settles O56: each effect of the five labels writes one element, which is the exception of its label. -/
theorem hostLabelsFrame : Obligations.HostLabelsFrame := by
  intro i s t hi h
  cases exec_effect h with
  | start =>
    exact ⟨rfl, rfl, rfl, rfl, rfl, rfl, rfl, fun _ => rfl, absurd rfl, fun _ => rfl, fun _ => rfl, fun _ _ => rfl⟩
  | stop =>
    exact ⟨rfl, rfl, rfl, rfl, rfl, rfl, rfl, fun _ => rfl, fun _ => rfl, absurd rfl, fun _ => rfl, fun _ _ => rfl⟩
  | clear =>
    exact ⟨rfl, rfl, rfl, rfl, rfl, rfl, rfl, fun _ => rfl, fun _ => rfl, fun _ => rfl, absurd rfl, fun _ _ => rfl⟩
  | snap =>
    exact ⟨rfl, rfl, rfl, rfl, rfl, rfl, rfl, fun _ => rfl, fun _ => rfl, fun _ => rfl, fun _ => rfl, absurd rfl⟩
  | alive =>
    exact ⟨rfl, rfl, rfl, rfl, rfl, rfl, rfl, fun _ => rfl, fun _ => rfl, fun _ => rfl, fun _ => rfl,
      fun _ => absurd rfl⟩
  | _ => simp [Instr.agents] at hi

/-- Settles O39: SNAP's effect is exact in every state. -/
theorem snapRespondsTheSixCounters : Obligations.SnapRespondsTheSixCounters :=
  fun s => (Effect.snap s).exec_eq

/-- Settles O40: CLEAR's effect is exact in every state. -/
theorem clearZeroesTheSixCounters : Obligations.ClearZeroesTheSixCounters :=
  fun s => (Effect.clear s).exec_eq

end Sys2Proof.Proofs

/-! PROOFS. TXPATH (rules R175 to R181): what XMIT and TXSTEP do, refuse and leave alone, that a caller's calls and
their outcomes match, and that the transmit and receive sides do not see each other. -/

namespace Sys2Proof.Machine

variable {i : Instr} {s t : State} {c d : Nat}

/-! ### Refusals (rules R175 to R177) -/

/-- XMIT on a caller that is not idle. -/
theorem exec_xmit_busy {k : TxCtx} (hc : s.tx.ctx[c]? = some k) (hk : k ≠ .idle) (p : Bytes) :
    exec (.xmit c p) s = .refused (.callerBusy c) := by
  cases k with
  | idle => exact absurd rfl hk
  | enc | wr => simp only [exec, execXmit, hc]

theorem exec_txstep_idle (hc : s.tx.ctx[c]? = some .idle) (wok : Bool) :
    exec (.txstep c wok) s = .refused (.callerIdle c) := by
  simp only [exec, execTxstep, txstepEvent, hc]

/-! ### A caller's calls and their outcomes (rule R179) -/

theorem xmitResponses_append (c : Nat) (rs rs' : List Response) :
    xmitResponses c (rs ++ rs') = xmitResponses c rs + xmitResponses c rs' := by
  induction rs with
  | nil => exact (Nat.zero_add _).symm
  | cons r rs ih => cases r <;> simp [xmitResponses, ih, Nat.add_assoc]

theorem xmitLabels_cons (c : Nat) (i : Instr) (is : List Instr) :
    xmitLabels c (i :: is) = xmitLabels c [i] + xmitLabels c is := by
  cases i <;> simp [xmitLabels]

theorem callerInFlight_eq {k : TxCtx} (hc : s.tx.ctx[c]? = some k) : callerInFlight c s = k.isBusy.toNat := by
  simp only [callerInFlight, hc]

theorem callerInFlight_congr (h : t.tx.ctx[c]? = s.tx.ctx[c]?) : callerInFlight c t = callerInFlight c s := by
  simp only [callerInFlight, h]

/-- Rule R179 for the one label `i` from `s` to `t`: caller `c`'s outcomes and its call in flight grow by the call that
`i` begins, if it begins one. -/
def CallerBalanced (c : Nat) (i : Instr) (s t : State) : Prop :=
  xmitResponses c s.out + callerInFlight c s + xmitLabels c [i] = xmitResponses c t.out + callerInFlight c t

/-- A label that is no XMIT, writes no context and responds no XMIT_R. -/
theorem callerBalanced_of_tx_eq {rs : List Response} (htx : t.tx = s.tx) (hout : t.out = s.out ++ rs)
    (hrs : xmitResponses c rs = 0) (hi : xmitLabels c [i] = 0) : CallerBalanced c i s t := by
  have hflight : callerInFlight c t = callerInFlight c s := callerInFlight_congr (by rw [htx])
  rw [CallerBalanced, hout, xmitResponses_append, hrs, hi, hflight]
  omega

/-- Caller `d` goes from `k` to `k'`, with the label and the responses that account for it, none of them another
caller's. -/
theorem callerBalanced_of_set {k k' : TxCtx} {rs : List Response} (hd : s.tx.ctx[d]? = some k)
    (ht : t.tx.ctx = s.tx.ctx.set d k') (hout : t.out = s.out ++ rs)
    (hown : k.isBusy.toNat + xmitLabels d [i] = xmitResponses d rs + k'.isBusy.toNat)
    (hother : d ≠ c → xmitLabels c [i] = 0 ∧ xmitResponses c rs = 0) : CallerBalanced c i s t := by
  rw [CallerBalanced, hout, xmitResponses_append]
  by_cases hdc : d = c
  · subst hdc
    have hk' : t.tx.ctx[d]? = some k' := by
      rw [ht, List.getElem?_set_self (List.getElem?_eq_some_iff.1 hd).1]
    rw [callerInFlight_eq hd, callerInFlight_eq hk']
    omega
  · obtain ⟨hi, hrs⟩ := hother hdc
    have hflight : callerInFlight c t = callerInFlight c s :=
      callerInFlight_congr (by rw [ht, List.getElem?_set_ne hdc])
    rw [hi, hrs, hflight]
    omega

theorem Effect.callerBalanced (h : Effect i s t) (c : Nat) : CallerBalanced c i s t := by
  cases h with
  | xmit _ d p hd =>
    exact callerBalanced_of_set hd rfl (List.append_nil _).symm (by simp [xmitLabels, xmitResponses, TxCtx.isBusy])
      fun hdc => ⟨by simp [xmitLabels, hdc], rfl⟩
  | encodeFails _ d _ hd | writeOk _ d _ hd | writeFails _ d _ hd =>
    exact callerBalanced_of_set hd rfl rfl (by simp [xmitLabels, xmitResponses, TxCtx.isBusy])
      fun hdc => ⟨rfl, by simp [xmitResponses, hdc]⟩
  | encodeAlone _ d _ _ hd | encodeOverlap _ d _ _ hd =>
    exact callerBalanced_of_set hd rfl rfl rfl fun _ => ⟨rfl, rfl⟩
  | snap | alive | rxerr | topStop | decodeOk | decodeFails | takeFrame | takeNothing | feed =>
    exact callerBalanced_of_tx_eq rfl rfl rfl rfl
  | _ => exact callerBalanced_of_tx_eq rfl (List.append_nil _).symm rfl rfl

/-! ### The two sides (rule R181) -/

/-- XMIT and TXSTEP, the labels of TXPATH. -/
def IsTransmit (i : Instr) : Prop := (∃ c p, i = .xmit c p) ∨ (∃ c wok, i = .txstep c wok)

theorem not_isTransmit_iff :
    ¬ IsTransmit i ↔ (∀ c p, i ≠ .xmit c p) ∧ (∀ c wok, i ≠ .txstep c wok) := by
  simp [IsTransmit]

/-- `s` with other elements on the receive side. -/
def State.withReceiveSide (sy : Sync) (rx : Rxseq) (ib : Inbox) (stop : Bool) (s : State) : State :=
  { s with sy := sy, rx := rx, ib := ib, stop := stop }

/-- `s` with other elements on the transmit side. -/
def State.withTransmitSide (tx : Tx) (txOverlap : Bool) (line : Option Bytes) (s : State) : State :=
  { s with tx := tx, txOverlap := txOverlap, line := line }

theorem Effect.receiveSide_eq (h : Effect i s t) (hi : IsTransmit i) :
    t.sy = s.sy ∧ t.rx = s.rx ∧ t.ib = s.ib ∧ t.stop = s.stop := by
  cases h with
  | xmit | encodeFails | encodeAlone | encodeOverlap | writeOk | writeFails => exact ⟨rfl, rfl, rfl, rfl⟩
  | _ => simp [IsTransmit] at hi

theorem Effect.transmitSide_eq (h : Effect i s t) (hi : ¬ IsTransmit i) :
    t.tx = s.tx ∧ t.txOverlap = s.txOverlap ∧ t.line = s.line := by
  cases h with
  | xmit | encodeFails | encodeAlone | encodeOverlap | writeOk | writeFails => simp [IsTransmit] at hi
  | _ => exact ⟨rfl, rfl, rfl⟩

/-- No condition of a transmit label's effect, and nothing that it writes, is on the receive side. -/
theorem Effect.withReceiveSide (h : Effect i s t) (hi : IsTransmit i) (sy : Sync) (rx : Rxseq) (ib : Inbox)
    (stop : Bool) : Effect i (s.withReceiveSide sy rx ib stop) (t.withReceiveSide sy rx ib stop) := by
  cases h with
  | xmit | encodeFails | encodeAlone | encodeOverlap | writeOk | writeFails => constructor <;> assumption
  | _ => simp [IsTransmit] at hi

/-- No condition of another label's effect, and nothing that it writes, is on the transmit side. -/
theorem Effect.withTransmitSide (h : Effect i s t) (hi : ¬ IsTransmit i) (tx : Tx) (txOverlap : Bool)
    (line : Option Bytes) :
    Effect i (s.withTransmitSide tx txOverlap line) (t.withTransmitSide tx txOverlap line) := by
  cases h with
  | xmit | encodeFails | encodeAlone | encodeOverlap | writeOk | writeFails => simp [IsTransmit] at hi
  | _ => constructor <;> assumption

end Sys2Proof.Machine

namespace Sys2Proof.Proofs

open Sys2Proof.Machine

/-- Settles O50, by induction on the run, each of whose labels balances the caller's account. -/
theorem everyTransmitHasOneOutcome : Obligations.EveryTransmitHasOneOutcome := by
  intro is s t c hrun
  induction is generalizing s with
  | nil =>
    obtain rfl := runInstrs_nil.1 hrun
    rfl
  | cons i is ih =>
    obtain ⟨u, heff, hrest⟩ := runInstrs_cons.1 hrun
    have hlabel : CallerBalanced c i s u := heff.callerBalanced c
    rw [CallerBalanced] at hlabel
    rw [xmitLabels_cons, ← Nat.add_assoc, hlabel, ih u hrest]

/-- Settles O51: what each side's effects leave alone of the other's elements, and that they take place whatever stands
there. -/
theorem transmitAndReceiveAreIndependent : Obligations.TransmitAndReceiveAreIndependent := by
  intro i s t h
  have heff : Effect i s t := exec_effect h
  simp only [← not_isTransmit_iff]
  refine ⟨heff.receiveSide_eq, fun hi => ?_, fun hi sy rx ib stop => (heff.withReceiveSide hi sy rx ib stop).exec_eq,
    fun hi tx txOverlap line _ => (heff.withTransmitSide hi tx txOverlap line).exec_eq⟩
  obtain ⟨htx, hmark, hline⟩ := heff.transmitSide_eq hi
  exact ⟨htx, hmark, fun _ => hline⟩

/-- Settles O59: the effects of the two labels write the transmit counters and the context of the caller that they
name. -/
theorem transmitLabelsFrame : Obligations.TransmitLabelsFrame := by
  intro i s t c p wok hi h
  have hother (k : TxCtx) (d : Nat) (hd : d ≠ c) : (s.tx.ctx.set c k)[d]? = s.tx.ctx[d]? :=
    List.getElem?_set_ne hd.symm
  rcases hi with rfl | rfl <;> cases exec_effect h
  case xmit => exact ⟨rfl, rfl, rfl, hother _, fun _ => ⟨rfl, fun _ => rfl⟩⟩
  case encodeFails | encodeAlone | encodeOverlap | writeOk | writeFails =>
    exact ⟨rfl, rfl, rfl, hother _, nofun⟩

/-- Settles O45: XMIT's effect is exact on an idle caller, on a busy one it has none, and on an idle one TXSTEP has
none. -/
theorem xmitCountsAndLatches : Obligations.XmitCountsAndLatches :=
  fun s t p => ⟨fun ht => (Effect.xmit s t p ht).exec_eq, fun _ ht => exec_xmit_busy ht nofun p,
    fun _ ht => exec_xmit_busy ht nofun p, fun wok ht => exec_txstep_idle ht wok⟩

/-- Settles O47: the verdict tells which of the two effects in T_WR it is; without the mark the bytes streamed are
`raw`, and the bytes that a failed write leaks are a part of it from the front. -/
theorem writingStepWritesAndCounts : Obligations.WritingStepWritesAndCounts := by
  intro s t raw ht
  refine ⟨⟨_, _, _, (Effect.writeOk s t raw ht).exec_eq, fun hno => ⟨streamed_of_no_overlap hno raw, ?_⟩⟩,
    ⟨_, _, (Effect.writeFails s t raw ht).exec_eq, fun hno => ⟨_, lineAfter_of_no_overlap hno _⟩⟩⟩
  rw [lineAfter_of_no_overlap hno, streamed_of_no_overlap hno]

end Sys2Proof.Proofs

/-! PROOFS. CTRL (rules R190, R191, R194): what START and STOP do and refuse, and who writes `stop`. -/

namespace Sys2Proof.Machine

variable {i : Instr} {s t : State}

/-- START once the loop has begun. -/
theorem exec_start_refused (hp : s.rx.phase ≠ .off) : exec .start s = .refused .phaseNotOff := if_neg hp

/-- STOP and RXERR, the labels that set `stop` (rule R194). -/
def SetsStop (i : Instr) : Prop := i = .stop ∨ i = .rxerr

theorem Effect.stop_of_setsStop (h : Effect i s t) (hi : SetsStop i) : t.stop = true := by
  rcases hi with rfl | rfl <;> cases h
  case stop | rxerr => rfl

theorem Effect.stop_eq (h : Effect i s t) (hi : ¬ SetsStop i) : t.stop = s.stop := by
  cases h with
  | stop => exact absurd (.inl rfl) hi
  | rxerr => exact absurd (.inr rfl) hi
  | _ => rfl

end Sys2Proof.Machine

namespace Sys2Proof.Proofs

open Sys2Proof.Machine

/-- Settles O55: the effects of STOP and RXERR set `stop`, and no other effect writes it. -/
theorem stopHasTwoSettersAndNoClearer : Obligations.StopHasTwoSettersAndNoClearer := by
  intro i s t h
  have heff : Effect i s t := exec_effect h
  exact ⟨heff.stop_of_setsStop, fun hstop hrxerr => heff.stop_eq (not_or.2 ⟨hstop, hrxerr⟩)⟩

/-- Settles O52: START's effect is exact in OFF, and in every other phase it has none. -/
theorem startBeginsTheLoopOnce : Obligations.StartBeginsTheLoopOnce :=
  fun s => ⟨fun hp => (Effect.start s hp).exec_eq, exec_start_refused⟩

/-- Settles O53: STOP's effect is exact in every state. -/
theorem stopSetsTheFlag : Obligations.StopSetsTheFlag :=
  fun s => (Effect.stop s).exec_eq

end Sys2Proof.Proofs

/-! PROOFS. Reset (rule R231): the values of the elements of rule R20. -/

namespace Sys2Proof.Proofs

open Sys2Proof.Machine

/-- Settles O8: the reset states of SYNC, RXSEQ, the inbox and TXPATH and the zero counters unfold to these values, as do
`stop` and the mark. -/
theorem resetPutsEveryElementAtItsValue : Obligations.ResetPutsEveryElementAtItsValue :=
  ⟨rfl, rfl, rfl, rfl, rfl, rfl, rfl, rfl⟩

end Sys2Proof.Proofs
